-- ==== Sys2Proof/Word.lean ====
section
/-!
DEFINITION. The data types of the engine: bytes, packets, AES words and the AES state matrix, and the one piece of
arithmetic that the packet formats and the bit-string packing share.
-/

namespace Sys2Proof

/-- A byte, an unsigned integer 0..255 (00_scope.md R7). -/
abbrev Byte := BitVec 8

/-- A packet, a sequence of bytes (00_scope.md R9; 20_memory.md R63). The ports carry none that is empty. -/
abbrev Packet := List Byte

/-- `ceil(n/8)`: the number of bytes that hold n bits (00_scope.md R9; 40_gf256.md R152 (g)). -/
def ceil8 (n : Nat) : Nat := (n + 7) / 8

/-- An AES word: "ordered sequence of exactly 4 bytes" (00_scope.md R11). -/
structure AesWord where
  w0 : Byte
  w1 : Byte
  w2 : Byte
  w3 : Byte
deriving DecidableEq, Repr

/-- The AES state: a 4 x 4 matrix of bytes (00_scope.md R11), held column by column, as the blocks and the round keys
arrive (20_memory.md R70). -/
structure AesState where
  col0 : AesWord
  col1 : AesWord
  col2 : AesWord
  col3 : AesWord
deriving DecidableEq, Repr

end Sys2Proof
end

