-- ==== Sys2Proof/Config.lean ====
section
/-!
DEFINITION. The implementation parameters. "Every parameter is fixed; the model takes none as an argument"
(00_scope.md R6). There is no opaque constant here: the spec leaves no value open (93_implementation_defined.md).
-/

namespace Sys2Proof.Config

/-- The AES block and key length in bytes (R6). -/
def aesBytes : Nat := 16

/-- The number of the last AES round; round 0 comes before rounds 1..10 (R6, "Nr = 10"). -/
def aesRounds : Nat := 10

/-- The number of words of the AES key schedule (R6). -/
def aesWords : Nat := 44

/-- The pad byte of AES blocks and keys (R6). -/
def aesPad : Byte := 0x00

/-- The DES block and key length in bytes (R6). -/
def desBytes : Nat := 8

/-- The number of DES rounds and of DES round keys (R6). -/
def desRounds : Nat := 16

/-- The pad byte of DES blocks and keys, a space (R6). -/
def desPad : Byte := 0x20

/-- The low byte of the reduction polynomial 0x11B (R6). -/
def gfReduction : Byte := 0x1B

/-- The longest bit string of the bit-vector unit, and the most entries and the largest entry of its table (R6). -/
def bvMaxBits : Nat := 64

end Sys2Proof.Config
end

