-- ==== Sys2Proof/Syntax.lean ====
section
/-!
DEFINITION. The commands of the engine (30_encoding.md R113), one constructor for each row of spec/opcode_table.json,
and the names of the fault codes (60_exceptions.md R281), which are what decoding answers when it finds no command.
-/

namespace Sys2Proof

/-- The fault codes of 60_exceptions.md R281. `eFaulted` answers packets in FAULTED mode and is never recorded. -/
inductive FaultCode where
  /-- The opcode byte is in no row of the opcode map. -/
  | eOpcode
  /-- The packet's length is not legal for the opcode's format, or the packet is empty. -/
  | eFormat
  /-- An operand byte is outside its range. -/
  | eOperand
  /-- The two bit strings of BV.XOR have different lengths. -/
  | eLength
  /-- A register is not valid, or a sequencer does not have the value needed. -/
  | eSequence
  /-- A permutation table entry names a position beyond the input. -/
  | eIndex
  /-- The engine is in FAULTED mode. -/
  | eFaulted
deriving DecidableEq, Repr

/-- A command with its operands, each a whole byte or a run of bytes (30_encoding.md R112, R113). -/
inductive Instr where
  /-- SYS.NOP -/
  | sysNop
  /-- SYS.RESET -/
  | sysReset
  /-- SYS.RDSTAT -/
  | sysRdstat
  /-- GF.ADD a, b -/
  | gfAdd (a b : Byte)
  /-- GF.MUL2 b -/
  | gfMul2 (b : Byte)
  /-- GF.MUL3 b -/
  | gfMul3 (b : Byte)
  /-- GF.MUL a, b -/
  | gfMul (a b : Byte)
  /-- GF.MIXCOL c0, c1, c2, c3 -/
  | gfMixcol (c0 c1 c2 c3 : Byte)
  /-- BV.LDT e0, e1, ... -/
  | bvLdt (entries : List Byte)
  /-- BV.PERM sel, nbits, data -/
  | bvPerm (sel nbits : Byte) (data : List Byte)
  /-- BV.XOR na, nb, A, B -/
  | bvXor (na nb : Byte) (A B : List Byte)
  /-- BV.ROL nbits, cnt, data -/
  | bvRol (nbits cnt : Byte) (data : List Byte)
  /-- AES.LDBLK data -/
  | aesLdblk (data : List Byte)
  /-- AES.LDKEY data -/
  | aesLdkey (data : List Byte)
  /-- AES.KEYEXP -/
  | aesKeyexp
  /-- AES.SUBBYTES -/
  | aesSubbytes
  /-- AES.SHIFTROWS -/
  | aesShiftrows
  /-- AES.MIXCOLS -/
  | aesMixcols
  /-- AES.ADDRK k -/
  | aesAddrk (k : Byte)
  /-- AES.ROUND -/
  | aesRound
  /-- AES.ENC -/
  | aesEnc
  /-- AES.RDBLK -/
  | aesRdblk
  /-- AES.RDRK k -/
  | aesRdrk (k : Byte)
  /-- AES.SBOX b -/
  | aesSbox (b : Byte)
  /-- DES.LDBLK data -/
  | desLdblk (data : List Byte)
  /-- DES.LDKEY data -/
  | desLdkey (data : List Byte)
  /-- DES.KEYSCHED -/
  | desKeysched
  /-- DES.IP -/
  | desIp
  /-- DES.ROUND -/
  | desRound
  /-- DES.FP -/
  | desFp
  /-- DES.ENC -/
  | desEnc
  /-- DES.RDBLK -/
  | desRdblk
  /-- DES.RDLR -/
  | desRdlr
  /-- DES.RDRK i -/
  | desRdrk (i : Byte)
  /-- DES.F i -/
  | desF (i : Byte)
  /-- DES.SBOX j, v -/
  | desSbox (j v : Byte)
deriving DecidableEq, Repr

end Sys2Proof
end

