-- ==== Sys2Proof/WellFormed.lean ====
section
/-!
DEFINITION. Which commands some packet stands for: the runs of bytes have the lengths that the command's format gives
them (30_encoding.md R111). Operand ranges are not checked here: an operand out of its range is a legal packet whose
execution faults (R114).
-/

namespace Sys2Proof

/-- The lengths of the command's runs of bytes are those of its format (30_encoding.md R111). Only the formats FT, FP,
FX and FR restrict them. -/
def Instr.wf : Instr → Bool
  | .bvLdt entries => decide (1 ≤ entries.length ∧ entries.length ≤ Config.bvMaxBits)
  | .bvPerm _ nbits data => data.length == ceil8 nbits.toNat
  | .bvXor na nb A B => A.length == ceil8 na.toNat && B.length == ceil8 nb.toNat
  | .bvRol nbits _ data => data.length == ceil8 nbits.toNat
  | .sysNop | .sysReset | .sysRdstat | .gfAdd _ _ | .gfMul2 _ | .gfMul3 _ | .gfMul _ _ | .gfMixcol _ _ _ _
  | .aesLdblk _ | .aesLdkey _ | .aesKeyexp | .aesSubbytes | .aesShiftrows | .aesMixcols | .aesAddrk _ | .aesRound
  | .aesEnc | .aesRdblk | .aesRdrk _ | .aesSbox _ | .desLdblk _ | .desLdkey _ | .desKeysched | .desIp | .desRound
  | .desFp | .desEnc | .desRdblk | .desRdlr | .desRdrk _ | .desF _ | .desSbox _ _ => true

end Sys2Proof
end

