-- ==== Sys2Proof/Decode.lean ====
section
/-!
DEFINITION. From packets to commands and back (30_encoding.md R110 to R115): the packet formats, the opcode map as a
total decoder, the encoder, and the reading of the words of spec/opcode_table.json.
-/

namespace Sys2Proof

/-! ## The formats (30_encoding.md R111), each from the operand bytes that follow the opcode -/

/-- Format F0: no operands. -/
def formatF0 (i : Instr) : List Byte → Except FaultCode Instr
  | [] => .ok i
  | _ => .error .eFormat

/-- Format F1: one operand byte. -/
def formatF1 (mk : Byte → Instr) : List Byte → Except FaultCode Instr
  | [a] => .ok (mk a)
  | _ => .error .eFormat

/-- Format F2: two operand bytes. -/
def formatF2 (mk : Byte → Byte → Instr) : List Byte → Except FaultCode Instr
  | [a, b] => .ok (mk a b)
  | _ => .error .eFormat

/-- Format F4: four operand bytes. -/
def formatF4 (mk : Byte → Byte → Byte → Byte → Instr) : List Byte → Except FaultCode Instr
  | [c0, c1, c2, c3] => .ok (mk c0 c1 c2 c3)
  | _ => .error .eFormat

/-- Format FD: any number of data bytes, none too. -/
def formatFD (mk : List Byte → Instr) (data : List Byte) : Except FaultCode Instr :=
  .ok (mk data)

/-- Format FT: 1 to 64 table entries. -/
def formatFT (mk : List Byte → Instr) (entries : List Byte) : Except FaultCode Instr :=
  if 1 ≤ entries.length ∧ entries.length ≤ Config.bvMaxBits then .ok (mk entries) else .error .eFormat

/-- Format FP: a selector, a length in bits, and the bytes that hold so many bits. -/
def formatFP (mk : Byte → Byte → List Byte → Instr) : List Byte → Except FaultCode Instr
  | sel :: nbits :: data =>
    if data.length = ceil8 nbits.toNat then .ok (mk sel nbits data) else .error .eFormat
  | _ => .error .eFormat

/-- Format FX: two lengths in bits, and the bytes of the one bit string and then of the other. -/
def formatFX (mk : Byte → Byte → List Byte → List Byte → Instr) : List Byte → Except FaultCode Instr
  | na :: nb :: data =>
    if data.length = ceil8 na.toNat + ceil8 nb.toNat then
      .ok (mk na nb (data.take (ceil8 na.toNat)) (data.drop (ceil8 na.toNat)))
    else .error .eFormat
  | _ => .error .eFormat

/-- Format FR: a length in bits, a count, and the bytes that hold so many bits. -/
def formatFR (mk : Byte → Byte → List Byte → Instr) : List Byte → Except FaultCode Instr
  | nbits :: cnt :: data =>
    if data.length = ceil8 nbits.toNat then .ok (mk nbits cnt data) else .error .eFormat
  | _ => .error .eFormat

/-! ## Decoding -/

/-- The command of an opcode byte and its operand bytes: the opcode map of 30_encoding.md R113. The match is on all 8
bits; an opcode byte in no row is illegal whatever follows it (R115). -/
def decodeOperands (op : Byte) (args : List Byte) : Except FaultCode Instr :=
  match op.toNat with
  | 0x00 => formatF0 .sysNop args
  | 0x01 => formatF0 .sysReset args
  | 0x02 => formatF0 .sysRdstat args
  | 0x10 => formatF2 .gfAdd args
  | 0x11 => formatF1 .gfMul2 args
  | 0x12 => formatF1 .gfMul3 args
  | 0x13 => formatF2 .gfMul args
  | 0x14 => formatF4 .gfMixcol args
  | 0x20 => formatFT .bvLdt args
  | 0x21 => formatFP .bvPerm args
  | 0x22 => formatFX .bvXor args
  | 0x23 => formatFR .bvRol args
  | 0x30 => formatFD .aesLdblk args
  | 0x31 => formatFD .aesLdkey args
  | 0x32 => formatF0 .aesKeyexp args
  | 0x33 => formatF0 .aesSubbytes args
  | 0x34 => formatF0 .aesShiftrows args
  | 0x35 => formatF0 .aesMixcols args
  | 0x36 => formatF1 .aesAddrk args
  | 0x37 => formatF0 .aesRound args
  | 0x38 => formatF0 .aesEnc args
  | 0x39 => formatF0 .aesRdblk args
  | 0x3A => formatF1 .aesRdrk args
  | 0x3B => formatF1 .aesSbox args
  | 0x40 => formatFD .desLdblk args
  | 0x41 => formatFD .desLdkey args
  | 0x42 => formatF0 .desKeysched args
  | 0x43 => formatF0 .desIp args
  | 0x44 => formatF0 .desRound args
  | 0x45 => formatF0 .desFp args
  | 0x46 => formatF0 .desEnc args
  | 0x47 => formatF0 .desRdblk args
  | 0x48 => formatF0 .desRdlr args
  | 0x49 => formatF1 .desRdrk args
  | 0x4A => formatF1 .desF args
  | 0x4B => formatF2 .desSbox args
  | _ => .error .eOpcode

/-- Decoding, a total function from byte lists to a command or a fault code (30_encoding.md R114). -/
def decode : Packet → Except FaultCode Instr
  | [] => .error .eFormat
  | op :: args => decodeOperands op args

/-! ## Encoding -/

/-- The opcode byte of a command (30_encoding.md R113). -/
def Instr.opcode : Instr → Byte
  | .sysNop => 0x00
  | .sysReset => 0x01
  | .sysRdstat => 0x02
  | .gfAdd _ _ => 0x10
  | .gfMul2 _ => 0x11
  | .gfMul3 _ => 0x12
  | .gfMul _ _ => 0x13
  | .gfMixcol _ _ _ _ => 0x14
  | .bvLdt _ => 0x20
  | .bvPerm _ _ _ => 0x21
  | .bvXor _ _ _ _ => 0x22
  | .bvRol _ _ _ => 0x23
  | .aesLdblk _ => 0x30
  | .aesLdkey _ => 0x31
  | .aesKeyexp => 0x32
  | .aesSubbytes => 0x33
  | .aesShiftrows => 0x34
  | .aesMixcols => 0x35
  | .aesAddrk _ => 0x36
  | .aesRound => 0x37
  | .aesEnc => 0x38
  | .aesRdblk => 0x39
  | .aesRdrk _ => 0x3A
  | .aesSbox _ => 0x3B
  | .desLdblk _ => 0x40
  | .desLdkey _ => 0x41
  | .desKeysched => 0x42
  | .desIp => 0x43
  | .desRound => 0x44
  | .desFp => 0x45
  | .desEnc => 0x46
  | .desRdblk => 0x47
  | .desRdlr => 0x48
  | .desRdrk _ => 0x49
  | .desF _ => 0x4A
  | .desSbox _ _ => 0x4B

/-- The operand bytes of a command, in packet order (30_encoding.md R111). -/
def Instr.operandBytes : Instr → List Byte
  | .gfAdd a b | .gfMul a b => [a, b]
  | .gfMul2 b | .gfMul3 b | .aesSbox b => [b]
  | .gfMixcol c0 c1 c2 c3 => [c0, c1, c2, c3]
  | .bvLdt entries => entries
  | .bvPerm sel nbits data => sel :: nbits :: data
  | .bvXor na nb A B => na :: nb :: (A ++ B)
  | .bvRol nbits cnt data => nbits :: cnt :: data
  | .aesLdblk data | .aesLdkey data | .desLdblk data | .desLdkey data => data
  | .aesAddrk k | .aesRdrk k => [k]
  | .desRdrk i | .desF i => [i]
  | .desSbox j v => [j, v]
  | .sysNop | .sysReset | .sysRdstat | .aesKeyexp | .aesSubbytes | .aesShiftrows | .aesMixcols | .aesRound | .aesEnc
  | .aesRdblk | .desKeysched | .desIp | .desRound | .desFp | .desEnc | .desRdblk | .desRdlr => []

/-- The packet of a command: the opcode byte, then the operand bytes (30_encoding.md R110). -/
def encode (i : Instr) : Packet := i.opcode :: i.operandBytes

/-! ## The words of spec/opcode_table.json -/

/-- The bytes of a table word: byte 0 is bits 7..0 of `w`, and so on for `nbits` bits. -/
def tableBytes (nbits w : Nat) : Packet :=
  (List.range (nbits / 8)).map fun n => BitVec.ofNat 8 (w >>> (8 * n))

/-- Does the packet decode to some command? -/
def decodes (pkt : Packet) : Bool :=
  match decode pkt with
  | .ok _ => true
  | .error _ => false

/-- The packet of a table word. The framing says where a command ends (30_encoding.md R110) and a table word has none,
so the packet is the word's bytes followed by as many zero bytes as make the shortest packet that is legal for the
opcode; the longest that can be needed is two runs of 32 data bytes after three bytes. DESIGN CHOICE (log 5), safe: it
only reads the opcode table. -/
def tablePacket (nbits w : Nat) : Packet :=
  (((List.range 68).map fun n => tableBytes nbits w ++ List.replicate n 0).find? decodes).getD (tableBytes nbits w)

/-- The command the decoder reads from a table word. -/
def decodeTableWord (nbits w : Nat) : Option Instr :=
  (decode (tablePacket nbits w)).toOption

end Sys2Proof
end

