-- ==== Sys2Proof/Machine/State.lean ====
section
/-!
DEFINITION. The state of the machine: every register of 10_state.md R21 to R35 under the spec's own name, the three
streams and the pin `rst_n` of 20_memory.md R61 to R63; the reasons a step can stop; and the state right after reset.
-/

namespace Sys2Proof.Machine

/-- Why a step could stop with a fault: there is no reason, so there is no constructor. What the spec calls a fault is
reported as data in a response and is a next state (60_exceptions.md R280, R283), and every command is defined in every
state for every packet (93_implementation_defined.md section 1). DEDUCED, safe (log 7). -/
inductive Fault where
deriving DecidableEq, Repr

/-- Why a step could be refused. -/
inductive Refusal where
  /-- Raised by an arm of `exec` whose instruction has no meaning yet; no arm is left that raises it. Safe: a refused
  instruction proves nothing. -/
  | notModelled (mnemonic : String)
deriving DecidableEq, Repr

/-- The register `MODE` (10_state.md R35; 60_exceptions.md R291): 0 is RUN, 1 is FAULTED. -/
inductive Mode where
  | run
  | faulted
deriving DecidableEq, Repr

/-- The state of the engine: its registers, and the packets that stand on its streams. -/
structure State where
  /-- The AES state register (10_state.md R21). -/
  S : AesState
  /-- The AES key-schedule words `W[0..43]` (R22). -/
  W : Vector AesWord 44
  /-- The AES round sequencer, 0..11 (R23). -/
  ARND : BitVec 4
  /-- AES state valid (R25). -/
  ASV : Bool
  /-- AES key words `W[0..3]` valid (R25). -/
  AKV : Bool
  /-- AES key schedule `W[4..43]` valid (R25). -/
  AKSV : Bool
  /-- The DES block register (R26). -/
  DB : BitVec 64
  /-- The DES key register (R27). -/
  DK : BitVec 64
  /-- The left half of the DES working block (R28). -/
  L : BitVec 32
  /-- The right half of the DES working block (R28). -/
  R : BitVec 32
  /-- The first half of the DES permuted key (R29). -/
  C : BitVec 28
  /-- The second half of the DES permuted key (R29). -/
  D : BitVec 28
  /-- The DES round keys; the spec's `K[i]`, i in 1..16, is element i-1 (R30). -/
  K : Vector (BitVec 48) 16
  /-- The DES sequencer, 0..18 (R31). -/
  DRND : BitVec 5
  /-- DES block valid (R32). -/
  DBV : Bool
  /-- DES key register valid (R32). -/
  DKV : Bool
  /-- DES round keys valid (R32). -/
  DKSV : Bool
  /-- The programmable permutation table `PT[0..63]` (R33). -/
  PT : Vector (BitVec 7) 64
  /-- The number of entries of `PT` in use (R33). -/
  PTLEN : BitVec 7
  /-- RUN or FAULTED (R35). -/
  MODE : Mode
  /-- The recorded fault code, 0 when none (R35). -/
  ERRCODE : Byte
  /-- The opcode byte of the command that faulted, 0 when none (R35). -/
  ERROP : Byte
  /-- The command packets received on CMD and not executed yet, oldest first (20_memory.md R61, R65; log 2). -/
  cmd : List Packet
  /-- The bytes received of a command packet whose last byte is still to come (R63; 70_reset_and_hazards.md R310). -/
  cmdPart : List Byte
  /-- The response packets on RSP that the host has not taken, oldest first (R61, R65; log 3). -/
  rsp : List Packet
  /-- The trace packets on TRC that the host has not taken, oldest first (R61, R66; log 3). -/
  trc : List Packet
  /-- The level of the input pin `rst_n`, driven by the host; low (false) is a hard reset (R62, R310; log 4). -/
  rstN : Bool
deriving DecidableEq, Repr

/-- The machine right after reset (10_state.md R39; 70_reset_and_hazards.md R310): every register at the value the spec
states, nothing on the streams, `rst_n` risen. -/
def State.reset : State where
  S := ⟨⟨0, 0, 0, 0⟩, ⟨0, 0, 0, 0⟩, ⟨0, 0, 0, 0⟩, ⟨0, 0, 0, 0⟩⟩
  W := Vector.replicate 44 ⟨0, 0, 0, 0⟩
  ARND := 0
  ASV := false
  AKV := false
  AKSV := false
  DB := 0
  DK := 0
  L := 0
  R := 0
  C := 0
  D := 0
  K := Vector.replicate 16 0
  DRND := 0
  DBV := false
  DKV := false
  DKSV := false
  PT := Vector.replicate 64 0
  PTLEN := 0
  MODE := .run
  ERRCODE := 0
  ERROP := 0
  cmd := []
  cmdPart := []
  rsp := []
  trc := []
  rstN := true

end Sys2Proof.Machine
end

