-- ==== Sys2Proof/Machine/Operands.lean ====
section
/-!
DEFINITION. The forms in which operands and registers are read: AES words and states as bytes, bit strings as bytes,
padding, and the three pure bit-string functions (00_scope.md R8 to R14; 20_memory.md R70, R71). A bit string of length
n is a `BitVec n` whose position 1 is the most significant bit (R8), so position p of X is `X.getMsbD (p - 1)`.
-/

namespace Sys2Proof

/-! ## AES words and states (00_scope.md R11) -/

/-- Byte r of a word. -/
def AesWord.get (w : AesWord) (r : Fin 4) : Byte :=
  match r with
  | 0 => w.w0
  | 1 => w.w1
  | 2 => w.w2
  | 3 => w.w3

/-- A word from its four bytes. -/
def AesWord.ofFn (f : Fin 4 → Byte) : AesWord := ⟨f 0, f 1, f 2, f 3⟩

/-- The bytes of a word, w0 first (20_memory.md R70). -/
def AesWord.bytes (w : AesWord) : List Byte := [w.w0, w.w1, w.w2, w.w3]

/-- Byte-by-byte exclusive-or of two words. -/
def AesWord.xor (a b : AesWord) : AesWord := AesWord.ofFn fun r => a.get r ^^^ b.get r

/-- The word of zero bytes. -/
def AesWord.zero : AesWord := ⟨0, 0, 0, 0⟩

/-- Column c of a state. -/
def AesState.col (s : AesState) (c : Fin 4) : AesWord :=
  match c with
  | 0 => s.col0
  | 1 => s.col1
  | 2 => s.col2
  | 3 => s.col3

/-- The cell `s[r][c]`. -/
def AesState.get (s : AesState) (r c : Fin 4) : Byte := (s.col c).get r

/-- A state from its four columns. -/
def AesState.ofCols (f : Fin 4 → AesWord) : AesState := ⟨f 0, f 1, f 2, f 3⟩

/-- The state whose cell `[r][c]` is `f r c`. -/
def AesState.ofFn (f : Fin 4 → Fin 4 → Byte) : AesState :=
  AesState.ofCols fun c => AesWord.ofFn fun r => f r c

/-- Byte-by-byte exclusive-or of two states. -/
def AesState.xor (a b : AesState) : AesState := AesState.ofFn fun r c => a.get r c ^^^ b.get r c

/-- `state_of(A)`: `s[r][c] = A[r + 4c]` (00_scope.md R11, "column-major fill"). -/
def stateOf (A : List Byte) : AesState := AesState.ofFn fun r c => A.getD (r.val + 4 * c.val) 0

/-- `bytes_of(s)`: the inverse of `stateOf`, "read out column-major". -/
def AesState.bytes (s : AesState) : List Byte := s.col0.bytes ++ s.col1.bytes ++ s.col2.bytes ++ s.col3.bytes

/-! ## Padding (00_scope.md R10) -/

/-- The first n bytes of A followed by n pad bytes. -/
def padTo (n : Nat) (pad : Byte) (A : List Byte) : List Byte := (A ++ List.replicate n pad).take n

/-- `padz16(A)`: an AES block or key from the data of a load. -/
def padz16 (A : List Byte) : List Byte := padTo Config.aesBytes Config.aesPad A

/-- `pads8(A)`: a DES block or key from the data of a load. -/
def pads8 (A : List Byte) : List Byte := padTo Config.desBytes Config.desPad A

/-! ## Bit strings and bytes (00_scope.md R9; 20_memory.md R71) -/

/-- The unsigned integer that the bytes spell, the first byte the most significant. -/
def bytesValue (A : List Byte) : Nat := A.foldl (fun acc b => 256 * acc + b.toNat) 0

/-- `bits(A)`: positions 8i+1..8i+8 are bits 7..0 of `A[i]`. -/
def bits (A : List Byte) : BitVec (8 * A.length) := BitVec.ofNat _ (bytesValue A)

/-- `unpack(A, n) = bits(A)[1..n]`; the bits of A beyond position n are ignored. -/
def unpack (A : List Byte) (n : Nat) : BitVec n := (bits A).extractLsb' (8 * A.length - n) n

/-- `pack(X)`: the bytes of X followed by as many zero bits as fill the last byte. -/
def pack {n : Nat} (X : BitVec n) : List Byte :=
  let filled := X ++ 0#(8 * ceil8 n - n)
  (List.range (ceil8 n)).map fun i => filled.extractLsb' (8 * (ceil8 n - 1 - i)) 8

/-- `permute(X, T)`: `Y[i+1] = X[T[i]]`, each entry of T a position from 1 (00_scope.md R14). The result has m bits, m
the number of entries of T. -/
def permute {n : Nat} (m : Nat) (T : List Nat) (X : BitVec n) : BitVec m :=
  (BitVec.ofBoolListBE (T.map fun t => X.getMsbD (t - 1))).setWidth m

/-- `xorbits(X, Y)`: pointwise exclusive-or of two bit strings of one length (00_scope.md R14). -/
def xorbits {n : Nat} (X Y : BitVec n) : BitVec n := X ^^^ Y

/-- `rol(X, n) = X[n+1..len(X)] ‖ X[1..n]`, for n below the length (00_scope.md R14). -/
def rol {n : Nat} (X : BitVec n) (cnt : Nat) : BitVec n := X.rotateLeft cnt

/-- `X[p..q]` as a string of `len` positions from position `first` on, counted from 1 (00_scope.md R8). -/
def substring {n : Nat} (X : BitVec n) (first len : Nat) : BitVec len :=
  X.extractLsb' (n + 1 - first - len) len

end Sys2Proof
end

