-- ==== Sys2Proof/Machine/Trace.lean ====
section
/-!
DEFINITION. The trace records (20_memory.md R75 to R79): "a sum type with one case per phase", and the packet each is
sent as. Numeric fields are natural numbers here and one byte on the stream (R76); every number the engine puts into a
record is below 64, so none is cut.
-/

namespace Sys2Proof

/-- The record kinds of 20_memory.md R77 (AES) and R78 (DES). -/
inductive TraceRecord where
  /-- `T_KSWORD`: `i`, `W[i-1]`, `W[i-4]`, `temp`, `W[i]`. -/
  | ksword (i : Nat) (prev back temp word : AesWord)
  /-- `T_SUB`: round, state before, state after. -/
  | sub (r : Nat) (before after : AesState)
  /-- `T_SHIFT`: round, state before, state after. -/
  | shift (r : Nat) (before after : AesState)
  /-- `T_MIX`: round, state before, state after. -/
  | mix (r : Nat) (before after : AesState)
  /-- `T_ARK`: round, round-key number, state before, round key, state after. -/
  | ark (r k : Nat) (before key after : AesState)
  /-- `T_AROUND`: round, state at its start, state at its end. -/
  | around (r : Nat) (before after : AesState)
  /-- `T_AFINAL`: final state. -/
  | afinal (final : AesState)
  /-- `T_PC1`: `DK`, `permute(DK, PC1)`, C0, D0. -/
  | pc1 (key : BitVec 64) (permuted : BitVec 56) (c d : BitVec 28)
  /-- `T_KSSHIFT`: `i`, `SHIFTS[i]`, C and D before, C and D after. -/
  | ksshift (i n : Nat) (c d c' d' : BitVec 28)
  /-- `T_PC2`: `i`, `C ‖ D` after the shift, `K[i]`. -/
  | pc2 (i : Nat) (cd : BitVec 56) (key : BitVec 48)
  /-- `T_IP`: `DB`, `permute(DB, IP)`. -/
  | ip (block permuted : BitVec 64)
  /-- `T_E`: `i`, R, `permute(R, E)`. -/
  | expand (i : Nat) (r : BitVec 32) (expanded : BitVec 48)
  /-- `T_KXOR`: `i`, expanded R, `K[i]`, their XOR. -/
  | kxor (i : Nat) (expanded key mixed : BitVec 48)
  /-- `T_SBOX`: `i`, `j`, chunk value, row, column, output. -/
  | sbox (i j chunk row col out : Nat)
  /-- `T_P`: `i`, the S-box output bits, their permutation. -/
  | perm (i : Nat) (looked permuted : BitVec 32)
  /-- `T_LXOR`: `i`, L before, F output, their XOR. -/
  | lxor (i : Nat) (l f r' : BitVec 32)
  /-- `T_DROUND`: `i`, L and R before, L and R after. -/
  | dround (i : Nat) (l r l' r' : BitVec 32)
  /-- `T_SWAP`: L16, R16, `R16 ‖ L16`. -/
  | swap (l r : BitVec 32) (swapped : BitVec 64)
  /-- `T_FP`: `R16 ‖ L16`, its permutation by FP. -/
  | fp (swapped permuted : BitVec 64)
  /-- `T_DFINAL`: ciphertext. -/
  | dfinal (ciphertext : BitVec 64)
deriving DecidableEq, Repr

/-- A numeric field: one byte holding the unsigned value (R76). -/
def numericField (n : Nat) : List Byte := [BitVec.ofNat 8 n]

/-- The tag byte of a record (R77, R78). -/
def TraceRecord.tag : TraceRecord → Byte
  | .ksword _ _ _ _ _ => 0x01
  | .sub _ _ _ => 0x02
  | .shift _ _ _ => 0x03
  | .mix _ _ _ => 0x04
  | .ark _ _ _ _ _ => 0x05
  | .around _ _ _ => 0x06
  | .afinal _ => 0x07
  | .pc1 _ _ _ _ => 0x10
  | .ksshift _ _ _ _ _ _ => 0x11
  | .pc2 _ _ _ => 0x12
  | .ip _ _ => 0x13
  | .expand _ _ _ => 0x14
  | .kxor _ _ _ _ => 0x15
  | .sbox _ _ _ _ _ _ => 0x16
  | .perm _ _ _ => 0x17
  | .lxor _ _ _ _ => 0x18
  | .dround _ _ _ _ _ => 0x19
  | .swap _ _ _ => 0x1A
  | .fp _ _ => 0x1B
  | .dfinal _ => 0x1C

/-- The fields of a record, each serialised as R76 says, in the order of R77 and R78. -/
def TraceRecord.fields : TraceRecord → List Byte
  | .ksword i prev back temp word => numericField i ++ prev.bytes ++ back.bytes ++ temp.bytes ++ word.bytes
  | .sub r before after => numericField r ++ before.bytes ++ after.bytes
  | .shift r before after => numericField r ++ before.bytes ++ after.bytes
  | .mix r before after => numericField r ++ before.bytes ++ after.bytes
  | .ark r k before key after => numericField r ++ numericField k ++ before.bytes ++ key.bytes ++ after.bytes
  | .around r before after => numericField r ++ before.bytes ++ after.bytes
  | .afinal final => final.bytes
  | .pc1 key permuted c d => pack key ++ pack permuted ++ pack c ++ pack d
  | .ksshift i n c d c' d' => numericField i ++ numericField n ++ pack c ++ pack d ++ pack c' ++ pack d'
  | .pc2 i cd key => numericField i ++ pack cd ++ pack key
  | .ip block permuted => pack block ++ pack permuted
  | .expand i r expanded => numericField i ++ pack r ++ pack expanded
  | .kxor i expanded key mixed => numericField i ++ pack expanded ++ pack key ++ pack mixed
  | .sbox i j chunk row col out =>
    numericField i ++ numericField j ++ numericField chunk ++ numericField row ++ numericField col ++ numericField out
  | .perm i looked permuted => numericField i ++ pack looked ++ pack permuted
  | .lxor i l f r' => numericField i ++ pack l ++ pack f ++ pack r'
  | .dround i l r l' r' => numericField i ++ pack l ++ pack r ++ pack l' ++ pack r'
  | .swap l r swapped => pack l ++ pack r ++ pack swapped
  | .fp swapped permuted => pack swapped ++ pack permuted
  | .dfinal ciphertext => pack ciphertext

/-- The trace packet of a record: its tag byte and its fields (R75). -/
def TraceRecord.packet (t : TraceRecord) : Packet := t.tag :: t.fields

end Sys2Proof
end

