-- ==== Sys2Proof/Machine/Ops.lean ====
section
/-!
DEFINITION. The operations that all commands share: putting packets on the streams, taking a fault and returning from
one, the mode test and the `require` lines that stand before every command's effect, and taking the next packet.
-/

namespace Sys2Proof.Machine

/-- What the meaning of a command answers. -/
abbrev Answer := Host.Outcome State Fault Refusal

/-! ## The output streams -/

/-- Put one response packet on RSP: a status byte, then the result (20_memory.md R68). -/
def State.respond (s : State) (status : Byte) (result : List Byte) : State :=
  { s with rsp := s.rsp ++ [status :: result] }

/-- `respond(A)` of 00_scope.md R12: the command succeeds, the response is `[0x00] ++ A`. -/
def State.ok (s : State) (result : List Byte) : State := s.respond 0x00 result

/-- `trace(...)` of 00_scope.md R12: put one trace packet on TRC. -/
def State.emit (s : State) (t : TraceRecord) : State := { s with trc := s.trc ++ [t.packet] }

/-- Put the trace packets of several records on TRC, in their order. -/
def State.emitAll (s : State) (ts : List TraceRecord) : State :=
  { s with trc := s.trc ++ ts.map TraceRecord.packet }

/-! ## Faults: taking one, refusing in FAULTED mode, and the return -/

/-- The status byte of a fault code (60_exceptions.md R281). -/
def FaultCode.toByte : FaultCode → Byte
  | .eOpcode => 0x01
  | .eFormat => 0x02
  | .eOperand => 0x03
  | .eLength => 0x04
  | .eSequence => 0x05
  | .eIndex => 0x06
  | .eFaulted => 0x07

/-- Fault entry in RUN mode (60_exceptions.md R283): the mode becomes FAULTED, the code and the opcode byte are recorded,
the response is the code alone; nothing else changes and nothing is traced. -/
def State.takeFault (s : State) (code : FaultCode) (op : Byte) : State :=
  State.respond { s with MODE := .faulted, ERRCODE := FaultCode.toByte code, ERROP := op } (FaultCode.toByte code) []

/-- The answer to a packet that FAULTED mode does not execute (60_exceptions.md R286, R288): the response `[0x07]` and
nothing else. -/
def State.refuseFaulted (s : State) : State := s.respond (FaultCode.toByte .eFaulted) []

/-- A fault found in either mode: the mode test comes before everything else (60_exceptions.md R285, R286). -/
def State.fail (s : State) (code : FaultCode) (op : Byte) : State :=
  match s.MODE with
  | .run => s.takeFault code op
  | .faulted => s.refuseFaulted

/-- The return from a fault, and the effect of `SYS.RESET` (60_exceptions.md R287; 44_system.md R272): every register at
its reset value. The packets on the streams and the pin stay (70_reset_and_hazards.md R311). -/
def State.resetRegisters (s : State) : State :=
  { State.reset with cmd := s.cmd, cmdPart := s.cmdPart, rsp := s.rsp, trc := s.trc, rstN := s.rstN }

/-! ## Executing a command -/

/-- One line `require c else Fault(code)` (00_scope.md R12). -/
def require (c : Prop) [Decidable c] (code : FaultCode) : Bool × FaultCode := (decide c, code)

/-- The code of the first `require` line that does not hold, in the order written (60_exceptions.md R285). -/
def firstFailure : List (Bool × FaultCode) → Option FaultCode
  | [] => none
  | (true, _) :: rest => firstFailure rest
  | (false, code) :: _ => some code

/-- A command with its `require` lines and the state it leaves when they all hold. All tests come before the first
change (60_exceptions.md R284), the mode test before the `require` lines (R285, R286). -/
def command (i : Instr) (s : State) (checks : List (Bool × FaultCode)) (done : State) : Answer :=
  match s.MODE, firstFailure checks with
  | .faulted, _ => .next s.refuseFaulted
  | .run, some code => .next (s.takeFault code i.opcode)
  | .run, none => .next done

/-! ## Taking the next packet, and the hard reset -/

/-- Take the oldest command packet off CMD; none when no whole packet has arrived (20_memory.md R63, R64). -/
def State.fetch (s : State) : Option (Packet × State) :=
  match s.cmd with
  | [] => none
  | pkt :: rest => some (pkt, { s with cmd := rest })

/-- A packet that decodes to no command (30_encoding.md R114): the fault of the decoder, recorded with the packet's
first byte, or 0 for an empty packet (60_exceptions.md R283); in FAULTED mode the refusal (R286). -/
def State.rejectPacket (s : State) (pkt : Packet) (code : FaultCode) : State := s.fail code (pkt.headD 0x00)

/-- What a low `rst_n` holds the engine in (70_reset_and_hazards.md R310): every register at its reset value, every
packet and every part of one discarded. -/
def State.heldInReset : State := { State.reset with rstN := false }

end Sys2Proof.Machine
end

