-- ==== Sys2Proof/Machine/Gf.lean ====
section
/-!
DEFINITION. The GF(2^8) unit: the functions of 40_gf256.md R141 to R145 and the commands of R147 to R151.
-/

namespace Sys2Proof

/-- `gf_add(a, b)` (R141). -/
def gfAdd (a b : Byte) : Byte := a ^^^ b

/-- `gf_mul2(b)`, "xtime": left shift by 1, reduced when the input's high bit was set (R142). -/
def gfMul2 (b : Byte) : Byte :=
  let s := b <<< 1
  if b.getLsbD 7 then s ^^^ Config.gfReduction else s

/-- `gf_mul3(b)` (R143). -/
def gfMul3 (b : Byte) : Byte := gfAdd (gfMul2 b) b

/-- The loop of `gf_mul`: accumulate `a` when the lowest bit of `b` is set, double `a`, halve `b` (R144). -/
def gfMulLoop : Nat → Byte → Byte → Byte → Byte
  | 0, p, _, _ => p
  | n + 1, p, a, b => gfMulLoop n (if b.getLsbD 0 then p ^^^ a else p) (gfMul2 a) (b >>> 1)

/-- `gf_mul(a, b)`: the loop always runs 8 times (R144). -/
def gfMul (a b : Byte) : Byte := gfMulLoop 8 0 a b

/-- `mix_column(c)` (R145). -/
def mixColumn (c : AesWord) : AesWord where
  w0 := gfMul2 c.w0 ^^^ gfMul3 c.w1 ^^^ c.w2 ^^^ c.w3
  w1 := c.w0 ^^^ gfMul2 c.w1 ^^^ gfMul3 c.w2 ^^^ c.w3
  w2 := c.w0 ^^^ c.w1 ^^^ gfMul2 c.w2 ^^^ gfMul3 c.w3
  w3 := gfMul3 c.w0 ^^^ c.w1 ^^^ c.w2 ^^^ gfMul2 c.w3

namespace Machine

/-- GF.ADD (R147). -/
def execGfAdd (a b : Byte) (s : State) : Answer :=
  command (.gfAdd a b) s [] (s.ok [gfAdd a b])

/-- GF.MUL2 (R148). -/
def execGfMul2 (b : Byte) (s : State) : Answer :=
  command (.gfMul2 b) s [] (s.ok [gfMul2 b])

/-- GF.MUL3 (R149). -/
def execGfMul3 (b : Byte) (s : State) : Answer :=
  command (.gfMul3 b) s [] (s.ok [gfMul3 b])

/-- GF.MUL (R150). -/
def execGfMul (a b : Byte) (s : State) : Answer :=
  command (.gfMul a b) s [] (s.ok [gfMul a b])

/-- GF.MIXCOL (R151). -/
def execGfMixcol (c0 c1 c2 c3 : Byte) (s : State) : Answer :=
  command (.gfMixcol c0 c1 c2 c3) s [] (s.ok (mixColumn ⟨c0, c1, c2, c3⟩).bytes)

end Machine

end Sys2Proof
end

