-- ==== Sys2Proof/Machine/Aes.lean ====
section
/-!
DEFINITION. The AES round engine: the transformations of 42_aes.md R181 to R192 and the commands of R193 to R204.
-/

namespace Sys2Proof

/-! ## The transformations, as functions on states and words -/

/-- `sub_bytes(s)` (R181). -/
def subBytes (s : AesState) : AesState := AesState.ofFn fun r c => sbox (s.get r c)

/-- `shift_rows(s)`: `t[r][c] = s[r][(c + r) mod 4]`, the sum of two `Fin 4` being modulo 4 (R184). -/
def shiftRows (s : AesState) : AesState := AesState.ofFn fun r c => s.get r (c + r)

/-- `mix_columns(s)` (R185). -/
def mixColumns (s : AesState) : AesState := AesState.ofCols fun c => mixColumn (s.col c)

/-- `rot_word(w)` (R189). -/
def rotWord (w : AesWord) : AesWord := ⟨w.w1, w.w2, w.w3, w.w0⟩

/-- `sub_word(w)` (R189). -/
def subWord (w : AesWord) : AesWord := AesWord.ofFn fun r => sbox (w.get r)

/-- The four key words of a 16-byte key: word j is bytes 4j..4j+3 (R188). -/
def keyWord (key : List Byte) (j : Nat) : AesWord := AesWord.ofFn fun r => key.getD (4 * j + r.val) 0

namespace Machine

/-- `W[i]`, i in 0..43 (10_state.md R22). Nothing asks for another i (log 10). -/
def State.word (s : State) (i : Nat) : AesWord := s.W.toList.getD i AesWord.zero

/-- `rk(k)`: the state whose column c is `W[4k + c]` (R187). -/
def State.roundKey (s : State) (k : Nat) : AesState := AesState.ofCols fun c => s.word (4 * k + c.val)

/-- `add_round_key(s, k)` on the state register (R186). -/
def State.addRoundKey (s : State) (k : Nat) : AesState := s.S.xor (s.roundKey k)

/-! ## Key expansion -/

/-- The value XORed into `W[i-4]` (R190). -/
def State.scheduleTemp (s : State) (i : Nat) : AesWord :=
  if i % 4 = 0 then (subWord (rotWord (s.word (i - 1)))).xor (rcon (i / 4)) else s.word (i - 1)

/-- The body of the loop of `expand()` for one i (R190). -/
def State.expandWord (s : State) (i : Nat) : State :=
  let temp := s.scheduleTemp i
  let word := (s.word (i - 4)).xor temp
  State.emit { s with W := s.W.setIfInBounds i word } (.ksword i (s.word (i - 1)) (s.word (i - 4)) temp word)

/-- `expand()`: `W[4..43]` in ascending order (R190). -/
def State.expandKey (s : State) : State := (List.range' 4 40).foldl State.expandWord s

/-! ## The traced forms (R191) and one round (R192) -/

/-- `do_sub()`. -/
def State.doSub (s : State) : State :=
  State.emit { s with S := subBytes s.S } (.sub s.ARND.toNat s.S (subBytes s.S))

/-- `do_shift()`. -/
def State.doShift (s : State) : State :=
  State.emit { s with S := shiftRows s.S } (.shift s.ARND.toNat s.S (shiftRows s.S))

/-- `do_mix()`. -/
def State.doMix (s : State) : State :=
  State.emit { s with S := mixColumns s.S } (.mix s.ARND.toNat s.S (mixColumns s.S))

/-- `do_ark(k)`. -/
def State.doArk (s : State) (k : Nat) : State :=
  State.emit { s with S := s.addRoundKey k } (.ark s.ARND.toNat k s.S (s.roundKey k) (s.addRoundKey k))

/-- The transformations of round r: AddRoundKey alone in round 0, no MixColumns in round 10 (R192). -/
def State.roundSteps (s : State) (r : Nat) : State :=
  if r = 0 then s.doArk 0
  else if r < Config.aesRounds then s.doSub.doShift.doMix.doArk r
  else s.doSub.doShift.doArk Config.aesRounds

/-- `do_round()`, for `ARND` at most 10 (R192): the round's transformations, the round-level record, the sequencer, and
after round 10 the final record. -/
def State.doRound (s : State) : State :=
  let r := s.ARND.toNat
  let t := s.roundSteps r
  let u := State.emit { t with ARND := s.ARND + 1 } (.around r s.S t.S)
  if r = Config.aesRounds then u.emit (.afinal u.S) else u

/-- `while ARND <= 10: do_round()`, at most the given number of times (R201; 70_reset_and_hazards.md R318). -/
def State.runRounds : Nat → State → State
  | 0, s => s
  | n + 1, s => if s.ARND.toNat ≤ Config.aesRounds then State.runRounds n s.doRound else s

/-! ## The commands -/

/-- AES.LDBLK (R193). -/
def execAesLdblk (data : List Byte) (s : State) : Answer :=
  command (.aesLdblk data) s []
    (State.ok { s with S := stateOf (padz16 data), ASV := true, ARND := 0 } [])

/-- `W[0..3]` from a 16-byte key; `W[4..43]` keep their contents (R194). -/
def State.setKeyWords (s : State) (key : List Byte) : Vector AesWord 44 :=
  (List.range 4).foldl (fun W j => W.setIfInBounds j (keyWord key j)) s.W

/-- AES.LDKEY (R194). -/
def execAesLdkey (data : List Byte) (s : State) : Answer :=
  command (.aesLdkey data) s []
    (State.ok { s with W := s.setKeyWords (padz16 data), AKV := true, AKSV := false } [])

/-- AES.KEYEXP (R195). -/
def execAesKeyexp (s : State) : Answer :=
  command .aesKeyexp s [require s.AKV .eSequence]
    (State.ok { s.expandKey with AKSV := true } [])

/-- AES.SUBBYTES (R196). -/
def execAesSubbytes (s : State) : Answer :=
  command .aesSubbytes s [require s.ASV .eSequence] (s.doSub.ok [])

/-- AES.SHIFTROWS (R197). -/
def execAesShiftrows (s : State) : Answer :=
  command .aesShiftrows s [require s.ASV .eSequence] (s.doShift.ok [])

/-- AES.MIXCOLS (R198). -/
def execAesMixcols (s : State) : Answer :=
  command .aesMixcols s [require s.ASV .eSequence] (s.doMix.ok [])

/-- AES.ADDRK (R199). -/
def execAesAddrk (k : Byte) (s : State) : Answer :=
  command (.aesAddrk k) s
    [require (k.toNat ≤ Config.aesRounds) .eOperand, require (s.ASV ∧ s.AKSV) .eSequence]
    ((s.doArk k.toNat).ok [])

/-- AES.ROUND (R200). -/
def execAesRound (s : State) : Answer :=
  command .aesRound s [require (s.ASV ∧ s.AKSV ∧ s.ARND.toNat ≤ Config.aesRounds) .eSequence]
    (s.doRound.ok [])

/-- AES.ENC: the rounds that remain, at most 11 (R201). -/
def execAesEnc (s : State) : Answer :=
  command .aesEnc s [require (s.ASV ∧ s.AKSV ∧ s.ARND.toNat ≤ Config.aesRounds) .eSequence]
    (let t := State.runRounds (Config.aesRounds + 1) s; t.ok t.S.bytes)

/-- AES.RDBLK (R202). -/
def execAesRdblk (s : State) : Answer :=
  command .aesRdblk s [require s.ASV .eSequence] (s.ok s.S.bytes)

/-- AES.RDRK (R203). -/
def execAesRdrk (k : Byte) (s : State) : Answer :=
  command (.aesRdrk k) s
    [require (k.toNat ≤ Config.aesRounds) .eOperand, require s.AKSV .eSequence]
    (s.ok (s.roundKey k.toNat).bytes)

/-- AES.SBOX (R204). -/
def execAesSbox (b : Byte) (s : State) : Answer :=
  command (.aesSbox b) s [] (s.ok [sbox b])

end Machine

end Sys2Proof
end

