-- ==== Sys2Proof/Machine/Bv.lean ====
section
/-!
DEFINITION. The bit-vector unit: the commands of 41_bitvector_permutation.md R162 to R165. The pure functions are in
Operands.lean (00_scope.md R14). The first `require` line of each is the length test of its format, which no packet that
decodes can fail (30_encoding.md R111; log 9).
-/

namespace Sys2Proof.Machine

/-- The table that a selector names (R161): the programmable table, or a DES table. Selectors above 6 name none. -/
def permTable (sel : Byte) (s : State) : List Nat :=
  match sel.toNat with
  | 0 => (s.PT.toList.take s.PTLEN.toNat).map BitVec.toNat
  | 1 => tableIP
  | 2 => tableFP
  | 3 => tableE
  | 4 => tableP
  | 5 => tablePC1
  | 6 => tablePC2
  | _ => []

/-- BV.LDT (R162). -/
def execBvLdt (entries : List Byte) (s : State) : Answer :=
  command (.bvLdt entries) s
    [require (1 ≤ entries.length ∧ entries.length ≤ Config.bvMaxBits) .eFormat,
     require (∀ e ∈ entries, 1 ≤ e.toNat ∧ e.toNat ≤ Config.bvMaxBits) .eOperand]
    (State.ok
      { s with
        PT := Vector.ofFn fun i => (entries.getD i.val 0).setWidth 7
        PTLEN := BitVec.ofNat 7 entries.length }
      [])

/-- BV.PERM (R163). -/
def execBvPerm (sel nbits : Byte) (data : List Byte) (s : State) : Answer :=
  command (.bvPerm sel nbits data) s
    [require (data.length = ceil8 nbits.toNat) .eFormat,
     require (sel.toNat ≤ 6 ∧ 1 ≤ nbits.toNat ∧ nbits.toNat ≤ Config.bvMaxBits) .eOperand,
     require (sel.toNat ≠ 0 ∨ 1 ≤ s.PTLEN.toNat) .eSequence,
     require (∀ t ∈ permTable sel s, t ≤ nbits.toNat) .eIndex]
    (s.ok (pack (permute (permTable sel s).length (permTable sel s) (unpack data nbits.toNat))))

/-- BV.XOR (R164). When the `require` lines hold the two lengths are one. -/
def execBvXor (na nb : Byte) (A B : List Byte) (s : State) : Answer :=
  command (.bvXor na nb A B) s
    [require (A.length = ceil8 na.toNat ∧ B.length = ceil8 nb.toNat) .eFormat,
     require ((1 ≤ na.toNat ∧ na.toNat ≤ Config.bvMaxBits) ∧ 1 ≤ nb.toNat ∧ nb.toNat ≤ Config.bvMaxBits) .eOperand,
     require (na = nb) .eLength]
    (s.ok (pack (xorbits (unpack A na.toNat) (unpack B na.toNat))))

/-- BV.ROL (R165). -/
def execBvRol (nbits cnt : Byte) (data : List Byte) (s : State) : Answer :=
  command (.bvRol nbits cnt data) s
    [require (data.length = ceil8 nbits.toNat) .eFormat,
     require ((1 ≤ nbits.toNat ∧ nbits.toNat ≤ Config.bvMaxBits) ∧ cnt.toNat < nbits.toNat) .eOperand]
    (s.ok (pack (rol (unpack data nbits.toNat) cnt.toNat)))

end Sys2Proof.Machine
end

