-- ==== Sys2Proof/Machine/Des.lean ====
section
/-!
DEFINITION. The DES Feistel round engine: the S-box lookup and the F-function of 43_des.md R228 and R229, and the
commands of R230 to R241.
-/

namespace Sys2Proof

/-! ## The S-box lookup and the F-function -/

/-- What one S-box lookup computes: the chunk's value, the row, the column and the output (R228). -/
structure SboxLookup where
  chunk : Nat
  row : Nat
  col : Nat
  out : Nat
deriving DecidableEq, Repr

/-- Bit p of a bit string as a number, positions from 1. -/
def bitAt {n : Nat} (X : BitVec n) (p : Nat) : Nat := (X.getMsbD (p - 1)).toNat

/-- `sbox(j, c)`: the outer bits select the row, the inner four the column (R228). -/
def desLookup (j : Nat) (c : BitVec 6) : SboxLookup :=
  let row := 2 * bitAt c 1 + bitAt c 6
  let col := 8 * bitAt c 2 + 4 * bitAt c 3 + 2 * bitAt c 4 + bitAt c 5
  { chunk := c.toNat, row, col, out := desBoxEntry j row col }

/-- Chunk j of the 48-bit string: `X[6j-5 .. 6j]` (R229). -/
def chunk (X : BitVec 48) (j : Nat) : BitVec 6 := substring X (6 * j - 5) 6

/-- The lookup of chunk j of X in S-box j. -/
def lookupChunk (X : BitVec 48) (j : Nat) : SboxLookup := desLookup j (chunk X j)

/-- The 32 S-box output bits: the eight 4-bit outputs in order of j, each most significant bit first (R229). -/
def sboxBits (X : BitVec 48) : BitVec 32 :=
  BitVec.ofNat 32 ((List.range' 1 8).foldl (fun acc j => 16 * acc + (lookupChunk X j).out) 0)

/-- `ER`: R expanded to 48 bits (R229). -/
def expandR (r : BitVec 32) : BitVec 48 := permute 48 tableE r

/-- `X`: the expanded R mixed with the round key (R229). -/
def mixKey (r : BitVec 32) (key : BitVec 48) : BitVec 48 := xorbits (expandR r) key

/-- The value of the F-function on R with a round key (R229). -/
def feistel (r : BitVec 32) (key : BitVec 48) : BitVec 32 := permute 32 tableP (sboxBits (mixKey r key))

/-- The 11 trace records of the F-function, stamped with the round-key number (R229). -/
def feistelRecords (i : Nat) (r : BitVec 32) (key : BitVec 48) : List TraceRecord :=
  let X := mixKey r key
  [.expand i r (expandR r), .kxor i (expandR r) key X]
    ++ (List.range' 1 8).map (fun j =>
      let l := lookupChunk X j
      .sbox i j l.chunk l.row l.col l.out)
    ++ [.perm i (sboxBits X) (feistel r key)]

namespace Machine

/-- `K[i]`, i in 1..16 (10_state.md R30). Nothing asks for another i (log 10). -/
def State.roundKey48 (s : State) (i : Nat) : BitVec 48 := s.K.toList.getD (i - 1) 0

/-! ## The key schedule -/

/-- C0 and D0 from the key register (R232). -/
def State.scheduleStart (s : State) : State :=
  let pk := permute 56 tablePC1 s.DK
  let c := substring pk 1 28
  let d := substring pk 29 28
  State.emit { s with C := c, D := d } (.pc1 s.DK pk c d)

/-- One round i of the key schedule (R232). -/
def State.scheduleRound (s : State) (i : Nat) : State :=
  let n := shifts i
  let c := rol s.C n
  let d := rol s.D n
  let key := permute 48 tablePC2 (c ++ d)
  State.emitAll { s with C := c, D := d, K := s.K.setIfInBounds (i - 1) key }
    [.ksshift i n s.C s.D c d, .pc2 i (c ++ d) key]

/-- The whole key schedule: C0 and D0, then rounds 1 to 16 (R232). -/
def State.scheduleKeys (s : State) : State := (List.range' 1 16).foldl State.scheduleRound s.scheduleStart

/-! ## The steps of the cipher -/

/-- The body of DES.IP (R233). -/
def State.initialPermutation (s : State) : State :=
  let X := permute 64 tableIP s.DB
  State.emit { s with L := substring X 1 32, R := substring X 33 32, DRND := 1 } (.ip s.DB X)

/-- `do_dround()` (R234). -/
def State.doDround (s : State) : State :=
  let i := s.DRND.toNat
  let key := s.roundKey48 i
  let fo := feistel s.R key
  let nr := xorbits s.L fo
  State.emitAll { s with L := s.R, R := nr, DRND := s.DRND + 1 }
    (feistelRecords i s.R key ++ [.lxor i s.L fo nr, .dround i s.L s.R s.R nr])

/-- `while DRND <= 16: do_dround()`, at most the given number of times (R236; 70_reset_and_hazards.md R318). -/
def State.runDrounds : Nat → State → State
  | 0, s => s
  | n + 1, s => if s.DRND.toNat ≤ Config.desRounds then State.runDrounds n s.doDround else s

/-- `do_dfinal()` (R235). -/
def State.doDfinal (s : State) : State :=
  let pre := s.R ++ s.L
  let out := permute 64 tableFP pre
  State.emitAll { s with DB := out, DRND := 18 } [.swap s.L s.R pre, .fp pre out, .dfinal out]

/-! ## The commands -/

/-- DES.LDBLK (R230). -/
def execDesLdblk (data : List Byte) (s : State) : Answer :=
  command (.desLdblk data) s []
    (State.ok { s with DB := unpack (pads8 data) 64, DBV := true, DRND := 0 } [])

/-- DES.LDKEY (R231). -/
def execDesLdkey (data : List Byte) (s : State) : Answer :=
  command (.desLdkey data) s []
    (State.ok { s with DK := unpack (pads8 data) 64, DKV := true, DKSV := false } [])

/-- DES.KEYSCHED (R232). -/
def execDesKeysched (s : State) : Answer :=
  command .desKeysched s [require s.DKV .eSequence]
    (State.ok { s.scheduleKeys with DKSV := true } [])

/-- DES.IP (R233). -/
def execDesIp (s : State) : Answer :=
  command .desIp s [require (s.DBV ∧ s.DRND.toNat = 0) .eSequence] (s.initialPermutation.ok [])

/-- DES.ROUND (R234). -/
def execDesRound (s : State) : Answer :=
  command .desRound s
    [require (s.DBV ∧ s.DKSV ∧ 1 ≤ s.DRND.toNat ∧ s.DRND.toNat ≤ Config.desRounds) .eSequence]
    (s.doDround.ok [])

/-- DES.FP (R235). -/
def execDesFp (s : State) : Answer :=
  command .desFp s [require (s.DBV ∧ s.DRND.toNat = 17) .eSequence] (s.doDfinal.ok [])

/-- DES.ENC: the steps that remain (R236). -/
def execDesEnc (s : State) : Answer :=
  command .desEnc s [require (s.DBV ∧ s.DKSV ∧ s.DRND.toNat ≤ 17) .eSequence]
    (let t := if s.DRND.toNat = 0 then s.initialPermutation else s
     let u := (State.runDrounds Config.desRounds t).doDfinal
     u.ok (pack u.DB))

/-- DES.RDBLK (R237). -/
def execDesRdblk (s : State) : Answer :=
  command .desRdblk s [require s.DBV .eSequence] (s.ok (pack s.DB))

/-- DES.RDLR (R238). -/
def execDesRdlr (s : State) : Answer :=
  command .desRdlr s [require (s.DBV ∧ 1 ≤ s.DRND.toNat) .eSequence] (s.ok (pack (s.L ++ s.R)))

/-- DES.RDRK (R239). -/
def execDesRdrk (i : Byte) (s : State) : Answer :=
  command (.desRdrk i) s
    [require (1 ≤ i.toNat ∧ i.toNat ≤ Config.desRounds) .eOperand, require s.DKSV .eSequence]
    (s.ok (pack (s.roundKey48 i.toNat)))

/-- DES.F: the F-function on the current R; it writes no register (R240). -/
def execDesF (i : Byte) (s : State) : Answer :=
  command (.desF i) s
    [require (1 ≤ i.toNat ∧ i.toNat ≤ Config.desRounds) .eOperand,
     require (s.DBV ∧ s.DKSV ∧ 1 ≤ s.DRND.toNat) .eSequence]
    (State.ok (s.emitAll (feistelRecords i.toNat s.R (s.roundKey48 i.toNat)))
      (pack (feistel s.R (s.roundKey48 i.toNat))))

/-- DES.SBOX: the chunk operand is its integer value, bit 5 its first bit (R241; 30_encoding.md R112). -/
def execDesSbox (j v : Byte) (s : State) : Answer :=
  command (.desSbox j v) s
    [require ((1 ≤ j.toNat ∧ j.toNat ≤ 8) ∧ v.toNat ≤ 63) .eOperand]
    (s.ok [BitVec.ofNat 8 (desLookup j.toNat (v.setWidth 6)).out])

end Machine

end Sys2Proof
end

