-- ==== Sys2Proof/Machine/Flags.lean ====
section
/-!
DEFINITION. The status bytes SR0..SR5, read-only views of the registers (10_state.md R36), and the pin `fault`
(60_exceptions.md R290). The engine has no carry, zero, sign or overflow flag; the valid flags change only as the command
rules say (10_state.md R25, R32), and each command's meaning writes its own.
-/

namespace Sys2Proof.Machine

/-- The register bit MODE: 0 RUN, 1 FAULTED (10_state.md R35). -/
def Mode.bit : Mode → BitVec 1
  | .run => 0
  | .faulted => 1

/-- SR0: bits 7:1 read as 0, bit 0 MODE. -/
def State.sr0 (s : State) : Byte := 0#7 ++ s.MODE.bit

/-- SR1: the recorded fault code. -/
def State.sr1 (s : State) : Byte := s.ERRCODE

/-- SR2: the opcode byte of the command that faulted. -/
def State.sr2 (s : State) : Byte := s.ERROP

/-- SR3: bit 7 ASV, bit 6 AKV, bit 5 AKSV, bit 4 reads as 0, bits 3:0 ARND. -/
def State.sr3 (s : State) : Byte :=
  BitVec.ofBool s.ASV ++ BitVec.ofBool s.AKV ++ BitVec.ofBool s.AKSV ++ 0#1 ++ s.ARND

/-- SR4: bit 7 DBV, bit 6 DKV, bit 5 DKSV, bits 4:0 DRND. -/
def State.sr4 (s : State) : Byte :=
  BitVec.ofBool s.DBV ++ BitVec.ofBool s.DKV ++ BitVec.ofBool s.DKSV ++ s.DRND

/-- SR5: bit 7 reads as 0, bits 6:0 PTLEN. -/
def State.sr5 (s : State) : Byte := 0#1 ++ s.PTLEN

/-- The status bytes in the order `SYS.RDSTAT` returns them (44_system.md R273). -/
def State.statusBytes (s : State) : List Byte := [s.sr0, s.sr1, s.sr2, s.sr3, s.sr4, s.sr5]

/-- The level of the output pin `fault`: the register bit MODE, not latched separately (60_exceptions.md R290). -/
def State.faultPin (s : State) : Bool :=
  match s.MODE with
  | .run => false
  | .faulted => true

end Sys2Proof.Machine
end

