-- ==== Sys2Proof/Machine/Sys.lean ====
section
/-!
DEFINITION. The system commands (44_system.md R271 to R273). `SYS.RESET` and `SYS.RDSTAT` execute in both modes
(60_exceptions.md R286), so they alone do not go through the mode test.
-/

namespace Sys2Proof.Machine

/-- SYS.NOP (R271). -/
def execSysNop (s : State) : Answer := command .sysNop s [] (s.ok [])

/-- SYS.RESET (R272), the way back from FAULTED mode (60_exceptions.md R287). -/
def execSysReset (s : State) : Answer := .next (s.resetRegisters.ok [])

/-- SYS.RDSTAT (R273); it has no side effect. -/
def execSysRdstat (s : State) : Answer := .next (s.ok s.statusBytes)

end Sys2Proof.Machine
end

