-- ==== Sys2Proof/Machine/Dispatch.lean ====
section
/-!
DEFINITION. The dispatch from a command to its meaning, one arm per constructor of Instr.
-/

namespace Sys2Proof.Machine

def exec (i : Instr) (s : State) : Host.Outcome State Fault Refusal :=
  match i with
  | .sysNop => Sys2Proof.Machine.execSysNop s
  | .sysReset => Sys2Proof.Machine.execSysReset s
  | .sysRdstat => Sys2Proof.Machine.execSysRdstat s
  | .gfAdd a b => Sys2Proof.Machine.execGfAdd a b s
  | .gfMul2 b => Sys2Proof.Machine.execGfMul2 b s
  | .gfMul3 b => Sys2Proof.Machine.execGfMul3 b s
  | .gfMul a b => Sys2Proof.Machine.execGfMul a b s
  | .gfMixcol c0 c1 c2 c3 => Sys2Proof.Machine.execGfMixcol c0 c1 c2 c3 s
  | .bvLdt entries => Sys2Proof.Machine.execBvLdt entries s
  | .bvPerm sel nbits data => Sys2Proof.Machine.execBvPerm sel nbits data s
  | .bvXor na nb A B => Sys2Proof.Machine.execBvXor na nb A B s
  | .bvRol nbits cnt data => Sys2Proof.Machine.execBvRol nbits cnt data s
  | .aesLdblk data => Sys2Proof.Machine.execAesLdblk data s
  | .aesLdkey data => Sys2Proof.Machine.execAesLdkey data s
  | .aesKeyexp => Sys2Proof.Machine.execAesKeyexp s
  | .aesSubbytes => Sys2Proof.Machine.execAesSubbytes s
  | .aesShiftrows => Sys2Proof.Machine.execAesShiftrows s
  | .aesMixcols => Sys2Proof.Machine.execAesMixcols s
  | .aesAddrk k => Sys2Proof.Machine.execAesAddrk k s
  | .aesRound => Sys2Proof.Machine.execAesRound s
  | .aesEnc => Sys2Proof.Machine.execAesEnc s
  | .aesRdblk => Sys2Proof.Machine.execAesRdblk s
  | .aesRdrk k => Sys2Proof.Machine.execAesRdrk k s
  | .aesSbox b => Sys2Proof.Machine.execAesSbox b s
  | .desLdblk data => Sys2Proof.Machine.execDesLdblk data s
  | .desLdkey data => Sys2Proof.Machine.execDesLdkey data s
  | .desKeysched => Sys2Proof.Machine.execDesKeysched s
  | .desIp => Sys2Proof.Machine.execDesIp s
  | .desRound => Sys2Proof.Machine.execDesRound s
  | .desFp => Sys2Proof.Machine.execDesFp s
  | .desEnc => Sys2Proof.Machine.execDesEnc s
  | .desRdblk => Sys2Proof.Machine.execDesRdblk s
  | .desRdlr => Sys2Proof.Machine.execDesRdlr s
  | .desRdrk n => Sys2Proof.Machine.execDesRdrk n s
  | .desF n => Sys2Proof.Machine.execDesF n s
  | .desSbox j v => Sys2Proof.Machine.execDesSbox j v s

end Sys2Proof.Machine
end

