-- ==== Sys2Proof/Machine/Step.lean ====
section
/-!
DEFINITION. One step of the engine: the execution of one command packet from start to finish (10_state.md R20,
20_memory.md R64), and the placing of a table word where the next step takes its packet from.
-/

namespace Sys2Proof.Machine

/-- One step. A low `rst_n` holds the engine in reset (70_reset_and_hazards.md R310). With no whole packet on CMD the
engine waits and holds all its state (R310; 60_exceptions.md R295; log 1). Otherwise the oldest packet is taken, decoded,
and its command executed; a packet that is no command is answered with the decoder's fault (30_encoding.md R114). -/
def step (s : State) : Host.Outcome State Fault Refusal :=
  match s.rstN with
  | false => .next State.heldInReset
  | true =>
    match s.fetch with
    | none => .next s
    | some (pkt, t) =>
      match decode pkt with
      | .ok i => exec i t
      | .error code => .next (t.rejectPacket pkt code)

/-- The state with the packet of a table word at the head of CMD, so that the next step executes it. The pin `rst_n` is
high, as executing needs (log 5). -/
def State.withFetchWord (s : State) (nbits w : Nat) : State :=
  { s with cmd := tablePacket nbits w :: s.cmd, rstN := true }

end Sys2Proof.Machine
end

