-- ==== Sys2Proof/Machine/Assembler.lean ====
section
/-!
DEFINITION. The host-side notations: the assembler's lines (30_encoding.md R116), the pseudo-instructions (R117) and
hexadecimal text (00_scope.md R15). Text is a list of characters. The engine knows nothing of this file.
-/

namespace Sys2Proof

/-! ## Pseudo-instructions (R117) -/

/-- The four pseudo-instructions. -/
inductive Pseudo where
  /-- AES.SIM text, key -/
  | aesSim (text key : List Byte)
  /-- DES.SIM text, key -/
  | desSim (text key : List Byte)
  /-- AES.STEPALL -/
  | aesStepall
  /-- DES.STEPALL -/
  | desStepall
deriving DecidableEq, Repr

/-- The command sequence that a pseudo-instruction stands for (R117). -/
def Pseudo.expand : Pseudo → List Instr
  | .aesSim text key => [.aesLdkey key, .aesKeyexp, .aesLdblk text, .aesEnc]
  | .desSim text key => [.desLdkey key, .desKeysched, .desLdblk text, .desEnc]
  | .aesStepall => List.replicate 11 .aesRound
  | .desStepall => .desIp :: (List.replicate 16 .desRound ++ [.desFp])

/-! ## Assembler lines (R116; what R116 leaves open is log 15) -/

/-- The mnemonics and their opcode bytes (R113). -/
def mnemonicTable : List (String × Byte) := [
  ("SYS.NOP", 0x00), ("SYS.RESET", 0x01), ("SYS.RDSTAT", 0x02),
  ("GF.ADD", 0x10), ("GF.MUL2", 0x11), ("GF.MUL3", 0x12), ("GF.MUL", 0x13), ("GF.MIXCOL", 0x14),
  ("BV.LDT", 0x20), ("BV.PERM", 0x21), ("BV.XOR", 0x22), ("BV.ROL", 0x23),
  ("AES.LDBLK", 0x30), ("AES.LDKEY", 0x31), ("AES.KEYEXP", 0x32), ("AES.SUBBYTES", 0x33), ("AES.SHIFTROWS", 0x34),
  ("AES.MIXCOLS", 0x35), ("AES.ADDRK", 0x36), ("AES.ROUND", 0x37), ("AES.ENC", 0x38), ("AES.RDBLK", 0x39),
  ("AES.RDRK", 0x3A), ("AES.SBOX", 0x3B),
  ("DES.LDBLK", 0x40), ("DES.LDKEY", 0x41), ("DES.KEYSCHED", 0x42), ("DES.IP", 0x43), ("DES.ROUND", 0x44),
  ("DES.FP", 0x45), ("DES.ENC", 0x46), ("DES.RDBLK", 0x47), ("DES.RDLR", 0x48), ("DES.RDRK", 0x49), ("DES.F", 0x4A),
  ("DES.SBOX", 0x4B)]

/-- The opcode byte of a mnemonic. -/
def mnemonicOpcode (name : List Char) : Option Byte :=
  (mnemonicTable.find? fun p => p.1.toList == name).map Prod.snd

/-- The double quote. -/
def quoteChar : Char := Char.ofNat 34

/-- Blanks between the parts of a line. -/
def isBlank (c : Char) : Bool := c == ' ' || c == '\t'

/-- The text without its leading blanks. -/
def skipBlanks (text : List Char) : List Char := text.dropWhile isBlank

/-- The value of a hexadecimal digit. -/
def hexValue (c : Char) : Option Nat :=
  let n := c.toNat
  if 48 ≤ n ∧ n ≤ 57 then some (n - 48)
  else if 97 ≤ n ∧ n ≤ 102 then some (n - 87)
  else if 65 ≤ n ∧ n ≤ 70 then some (n - 55)
  else none

/-- The byte of two hexadecimal digits. -/
def hexByte (high low : Char) : Option Byte :=
  match hexValue high, hexValue low with
  | some h, some l => some (BitVec.ofNat 8 (16 * h + l))
  | _, _ => none

/-- The bytes of an even number of hexadecimal digits. -/
def hexBytes : List Char → Option (List Byte)
  | [] => some []
  | h :: l :: rest =>
    match hexByte h l, hexBytes rest with
    | some b, some bs => some (b :: bs)
    | _, _ => none
  | [_] => none

/-- The codes of printable ASCII characters. -/
def asciiBytes (text : List Char) : Option (List Byte) :=
  if text.all (fun c => decide (32 ≤ c.toNat ∧ c.toNat ≤ 126)) then
    some (text.map fun c => BitVec.ofNat 8 c.toNat)
  else none

/-- The characters before the closing quote, and those after it. -/
def splitAtQuote : List Char → Option (List Char × List Char)
  | [] => none
  | c :: rest => if c = quoteChar then some ([], rest) else (splitAtQuote rest).map fun p => (c :: p.1, p.2)

/-- A byte as a decimal numeral. -/
def decimalByte (digits : List Char) : Option Byte :=
  let n := digits.foldl (fun acc c => 10 * acc + (c.toNat - 48)) 0
  if digits ≠ [] ∧ n ≤ 255 then some (BitVec.ofNat 8 n) else none

/-- The bytes of a quoted operand, read by the given reader, and the rest of the line. -/
def quotedOperand (read : List Char → Option (List Byte)) (text : List Char) : Option (List Byte × List Char) :=
  match splitAtQuote text with
  | none => none
  | some (inside, rest) => (read inside).map fun bs => (bs, rest)

/-- One operand at the head of the text: `x"..."`, `"..."`, `0x` and two hexadecimal digits, or a decimal numeral. -/
def operandBytesAt (text : List Char) : Option (List Byte × List Char) :=
  match text with
  | [] => none
  | c :: rest =>
    if c = quoteChar then quotedOperand asciiBytes rest
    else if c = 'x' ∧ rest.head? = some quoteChar then quotedOperand hexBytes rest.tail
    else if c = '0' ∧ rest.head? = some 'x' then
      match rest.tail with
      | h :: l :: after => (hexByte h l).map fun b => ([b], after)
      | _ => none
    else
      let isDigit := fun d : Char => decide (48 ≤ d.toNat ∧ d.toNat ≤ 57)
      (decimalByte (text.takeWhile isDigit)).map fun b => ([b], text.dropWhile isDigit)

/-- Is this the end of a line's code: nothing, or a comment? -/
def atEnd (text : List Char) : Bool :=
  match text with
  | [] => true
  | c :: _ => c == ';'

/-- The comma-separated operands of a line, each one's bytes; the first argument bounds their number. -/
def operandList : Nat → List Char → Option (List (List Byte))
  | 0, _ => none
  | n + 1, text =>
    match operandBytesAt (skipBlanks text) with
    | none => none
    | some (bs, after) =>
      match skipBlanks after with
      | [] => some [bs]
      | c :: rest =>
        if c = ';' then some [bs]
        else if c = ',' then (operandList n rest).map fun more => bs :: more
        else none

/-- A line's mnemonic and operands. A line with no code has the empty mnemonic. -/
def parseLine (line : List Char) : Option (List Char × List (List Byte)) :=
  let text := skipBlanks line
  let isName := fun c => !(isBlank c || c == ';')
  let name := text.takeWhile isName
  let rest := skipBlanks (text.dropWhile isName)
  if atEnd rest then some (name, [])
  else (operandList (rest.length + 1) rest).map fun ops => (name, ops)

/-- The pseudo-instruction of a name and its operands. -/
def pseudoOf (name : List Char) (ops : List (List Byte)) : Option Pseudo :=
  match ops with
  | [] =>
    if name = "AES.STEPALL".toList then some .aesStepall
    else if name = "DES.STEPALL".toList then some .desStepall
    else none
  | [text, key] =>
    if name = "AES.SIM".toList then some (.aesSim text key)
    else if name = "DES.SIM".toList then some (.desSim text key)
    else none
  | _ => none

/-- The packets of a line: the opcode byte followed by the operand bytes in the order written, nothing computed (R116),
or the packets of a pseudo-instruction's commands (R117); none when the line is not of the form R116 gives. -/
def assembleLine (line : List Char) : Option (List Packet) :=
  match parseLine line with
  | none => none
  | some (name, ops) =>
    if name = [] then (if ops = [] then some [] else none)
    else
      match mnemonicOpcode name with
      | some op => some [op :: ops.flatten]
      | none => (pseudoOf name ops).map fun p => p.expand.map encode

/-! ## Hexadecimal text (00_scope.md R15) -/

/-- One lower-case hexadecimal digit. -/
def hexDigitChar (n : Nat) : Char := Char.ofNat (if n < 10 then 48 + n else 87 + n)

/-- `hex(A)`: two digits a byte, the high nibble first. -/
def hexText (A : List Byte) : List Char :=
  A.flatMap fun b => [hexDigitChar (b.toNat / 16), hexDigitChar (b.toNat % 16)]

end Sys2Proof
end

