-- ==== Sys2Proof/Machine/Ports.lean ====
section
/-!
DEFINITION. What the host can do to the engine between steps (20_memory.md R61 to R63): send a byte on CMD, take a byte
from RSP or TRC, and drive the pin `rst_n`. Clock cycles and the `valid` and `ready` signals are left out, as R63 and
70_reset_and_hazards.md R317 allow (log 12).
-/

namespace Sys2Proof.Machine

/-- One byte transferred on CMD, with the mark `cmd_last`: the last byte of a packet completes it (R62, R63). While
`rst_n` is low the engine is held in reset and takes no byte (70_reset_and_hazards.md R310; log 11). -/
def State.sendByte (s : State) (b : Byte) (last : Bool) : State :=
  match s.rstN, last with
  | false, _ => s
  | true, true => { s with cmd := s.cmd ++ [s.cmdPart ++ [b]], cmdPart := [] }
  | true, false => { s with cmdPart := s.cmdPart ++ [b] }

/-- The bytes of one packet as they are transferred, `last` marking the final byte (R62, R63). -/
def framed : Packet → List (Byte × Bool)
  | [] => []
  | [b] => [(b, true)]
  | b :: c :: rest => (b, false) :: framed (c :: rest)

/-- Several bytes transferred on CMD, in order. -/
def State.sendBytes (s : State) (bytes : List (Byte × Bool)) : State :=
  bytes.foldl (fun t p => t.sendByte p.1 p.2) s

/-- The next byte of an output stream, with its `last` mark, and the packets left on the stream. No empty packet is put
on a stream; one that stood there would be passed over. -/
def takeByte : List Packet → Option ((Byte × Bool) × List Packet)
  | [] => none
  | [] :: rest => takeByte rest
  | [b] :: rest => some ((b, true), rest)
  | (b :: c :: bs) :: rest => some ((b, false), (c :: bs) :: rest)

/-- The host takes one byte from RSP (R62). -/
def State.takeRspByte (s : State) : Option ((Byte × Bool) × State) :=
  (takeByte s.rsp).map fun p => (p.1, { s with rsp := p.2 })

/-- The host takes one byte from TRC (R62). -/
def State.takeTrcByte (s : State) : Option ((Byte × Bool) × State) :=
  (takeByte s.trc).map fun p => (p.1, { s with trc := p.2 })

/-- The host drives `rst_n`. While it is low the engine is held in reset; when it rises every register has its reset
value and the streams are empty (70_reset_and_hazards.md R310). -/
def State.driveRstN (s : State) (level : Bool) : State :=
  match level, s.rstN with
  | false, _ => State.heldInReset
  | true, false => State.reset
  | true, true => s

end Sys2Proof.Machine
end

