-- ==== Sys2Proof/Safety.lean ====
section
/-!
DEFINITION. The terms in which claims about runs are stated: the ranges that hold in every reachable state, which parts
of two states agree, and when no response and no trace packet can tell two states apart.
-/

namespace Sys2Proof.Machine

/-- The ranges of 10_state.md R40, which hold in every reachable state. -/
structure State.InRange (s : State) : Prop where
  arnd : s.ARND.toNat ≤ 11
  drnd : s.DRND.toNat ≤ 18
  ptlen : s.PTLEN.toNat ≤ 64
  ptUsed : ∀ i : Fin 64, i.val < s.PTLEN.toNat → 1 ≤ s.PT[i].toNat ∧ s.PT[i].toNat ≤ 64
  ptFree : ∀ i : Fin 64, s.PTLEN.toNat ≤ i.val → s.PT[i] = 0
  errcode : s.ERRCODE.toNat ≤ 6
  mode : s.MODE = .faulted ↔ s.ERRCODE ≠ 0
  aksv : s.AKSV = true → s.AKV = true
  dksv : s.DKSV = true → s.DKV = true

/-- The AES registers, flags and sequencer are the same (10_state.md R21 to R25). -/
def State.SameAes (s t : State) : Prop :=
  s.S = t.S ∧ s.W = t.W ∧ s.ARND = t.ARND ∧ s.ASV = t.ASV ∧ s.AKV = t.AKV ∧ s.AKSV = t.AKSV

/-- The DES registers, flags and sequencer are the same (10_state.md R26 to R32). -/
def State.SameDes (s t : State) : Prop :=
  s.DB = t.DB ∧ s.DK = t.DK ∧ s.L = t.L ∧ s.R = t.R ∧ s.C = t.C ∧ s.D = t.D ∧ s.K = t.K ∧ s.DRND = t.DRND ∧
    s.DBV = t.DBV ∧ s.DKV = t.DKV ∧ s.DKSV = t.DKSV

/-- The programmable table is the same (10_state.md R33). -/
def State.SameTable (s t : State) : Prop := s.PT = t.PT ∧ s.PTLEN = t.PTLEN

/-- The mode and the recorded fault are the same (10_state.md R35). -/
def State.SameStatus (s t : State) : Prop := s.MODE = t.MODE ∧ s.ERRCODE = t.ERRCODE ∧ s.ERROP = t.ERROP

/-- The input side is the same: the packets on CMD, the part of one, and the pin `rst_n`. -/
def State.SameInput (s t : State) : Prop := s.cmd = t.cmd ∧ s.cmdPart = t.cmdPart ∧ s.rstN = t.rstN

/-- Every register is the same, those of a fault among them. -/
def State.SameRegisters (s t : State) : Prop := s.SameAes t ∧ s.SameDes t ∧ s.SameTable t ∧ s.SameStatus t

/-- The two states have the same flags, sequencers, status and streams, and agree on each data register as far as its
valid flag and its sequencer let a command read it (10_state.md R21 to R33, R39). -/
structure State.LooksLike (s t : State) : Prop where
  control : s.ARND = t.ARND ∧ s.ASV = t.ASV ∧ s.AKV = t.AKV ∧ s.AKSV = t.AKSV ∧ s.DRND = t.DRND ∧ s.DBV = t.DBV ∧
    s.DKV = t.DKV ∧ s.DKSV = t.DKSV ∧ s.PTLEN = t.PTLEN
  status : s.SameStatus t
  input : s.SameInput t
  output : s.rsp = t.rsp ∧ s.trc = t.trc
  aesState : s.ASV = true → s.S = t.S
  aesKey : s.AKV = true → ∀ j < 4, s.word j = t.word j
  aesSchedule : s.AKSV = true → s.W = t.W
  desBlock : s.DBV = true → s.DB = t.DB
  desKey : s.DKV = true → s.DK = t.DK
  desHalves : s.DBV = true → 1 ≤ s.DRND.toNat → s.L = t.L ∧ s.R = t.R
  desSchedule : s.DKSV = true → s.K = t.K
  table : ∀ i : Fin 64, i.val < s.PTLEN.toNat → s.PT[i] = t.PT[i]

end Sys2Proof.Machine
end

