-- ==== Sys2Proof/Certificates/Slice0/Obligations.lean ====
section
/-!
DEFINITION. The statements for the provers, and the terms they are written in. Each docstring names the rules of spec/
that the statement formalises. No statement rests on a value that the model chose; where one
rests on an inference that the spec marks as its own, or on how the model arranges steps and streams, it says so.
-/

namespace Sys2Proof.Claims

open Sys2Proof.Machine

/-! ## Terms the statements share -/

/-- The state with one success response added (20_memory.md R68). -/
def answered (s : State) (result : List Byte) : State := { s with rsp := s.rsp ++ [0x00 :: result] }

/-- The state that fault entry with a code leaves (60_exceptions.md R283). -/
def faultTaken (s : State) (code op : Byte) : State :=
  { s with MODE := .faulted, ERRCODE := code, ERROP := op, rsp := s.rsp ++ [[code]] }

/-- Format F0 (30_encoding.md R111): the opcode alone is the command, and any operand byte is a format fault. -/
def PacketF0 (op : Byte) (i : Instr) : Prop :=
  decode [op] = .ok i ∧ ∀ args : List Byte, args ≠ [] → decode (op :: args) = .error .eFormat

/-- Format F1: one operand byte, and any other number is a format fault. -/
def PacketF1 (op : Byte) (mk : Byte → Instr) : Prop :=
  (∀ a, decode [op, a] = .ok (mk a)) ∧ ∀ args : List Byte, args.length ≠ 1 → decode (op :: args) = .error .eFormat

/-- Format F2: two operand bytes, and any other number is a format fault. -/
def PacketF2 (op : Byte) (mk : Byte → Byte → Instr) : Prop :=
  (∀ a b, decode [op, a, b] = .ok (mk a b)) ∧
    ∀ args : List Byte, args.length ≠ 2 → decode (op :: args) = .error .eFormat

/-- Format FD: any number of data bytes. -/
def PacketFD (op : Byte) (mk : List Byte → Instr) : Prop := ∀ data, decode (op :: data) = .ok (mk data)

/-- Position p, counted from 0, of the bit string that the bytes spell (20_memory.md R71). -/
def bitOf (A : List Byte) (p : Nat) : Bool := (A.getD (p / 8) 0).getMsbD (p % 8)

/-- The bytes of `out` are the n bits `f 0, f 1, ...` in as few bytes as hold them, the rest of the last byte 0. -/
def SpellsBits (out : List Byte) (n : Nat) (f : Nat → Bool) : Prop :=
  out.length = (n + 7) / 8 ∧ ∀ p < 8 * out.length, bitOf out p = if p < n then f p else false

/-- The unit of a command, the high nibble of its opcode (30_encoding.md R113). -/
def unitOf (i : Instr) : Nat := i.opcode.toNat / 16

/-- Executing commands one after another; none when one of them does not answer a next state. -/
def execAll : List Instr → State → Option State
  | [], s => some s
  | i :: rest, s =>
    match exec i s with
    | .next t => execAll rest t
    | .fault _ => none
    | .refused _ => none

/-- The polynomial over GF(2) whose coefficients are the bits of a byte. -/
noncomputable def polynomial (b : Byte) : Polynomial (ZMod 2) :=
  ∑ i ∈ Finset.range 8, if b.getLsbD i then Polynomial.X ^ i else 0

/-- The polynomial x^8 + x^4 + x^3 + x + 1 (00_scope.md R2). -/
noncomputable def modulus : Polynomial (ZMod 2) :=
  Polynomial.X ^ 8 + Polynomial.X ^ 4 + Polynomial.X ^ 3 + Polynomial.X + 1

/-- Row r, column c of the MixColumns matrix: each row is the row above rotated one place to the right (40_gf256.md
R145). -/
def mixCoefficient (r c : Fin 4) : Byte :=
  match c - r with
  | 0 => 2
  | 1 => 3
  | 2 => 1
  | 3 => 1

/-- Byte r of the matrix product with a column. -/
def mixedByte (c : AesWord) (r : Fin 4) : Byte :=
  gfMul (mixCoefficient r 0) (c.get 0) ^^^ gfMul (mixCoefficient r 1) (c.get 1) ^^^
    gfMul (mixCoefficient r 2) (c.get 2) ^^^ gfMul (mixCoefficient r 3) (c.get 3)

/-- Rotate a byte left. -/
def rotl8 (b : Byte) (n : Nat) : Byte := b <<< n ||| b >>> (8 - n)

/-- Round key k as a state: column c is the word `W[4k + c]` (42_aes.md R187). -/
def roundKeyOf (W : Vector AesWord 44) (k : Nat) : AesState :=
  AesState.ofCols fun c => W.toList.getD (4 * k + c.val) ⟨0, 0, 0, 0⟩

/-- The state register after round r (42_aes.md R192). -/
def aesRoundState (W : Vector AesWord 44) (r : Nat) (a : AesState) : AesState :=
  if r = 0 then a.xor (roundKeyOf W 0)
  else if r ≤ 9 then (mixColumns (shiftRows (subBytes a))).xor (roundKeyOf W r)
  else (shiftRows (subBytes a)).xor (roundKeyOf W 10)

/-- The trace records of round r (42_aes.md R192; 20_memory.md R77). -/
def aesRoundRecords (W : Vector AesWord 44) (r : Nat) (a : AesState) : List TraceRecord :=
  let b := subBytes a
  let c := shiftRows b
  let d := mixColumns c
  let z := aesRoundState W r a
  (if r = 0 then [.ark 0 0 a (roundKeyOf W 0) z]
   else if r ≤ 9 then [.sub r a b, .shift r b c, .mix r c d, .ark r r d (roundKeyOf W r) z]
   else [.sub r a b, .shift r b c, .ark r 10 c (roundKeyOf W 10) z])
  ++ [.around r a z] ++ (if r = 10 then [.afinal z] else [])

/-- The state register and the records after n rounds from round r on. -/
def aesRounds (W : Vector AesWord 44) : Nat → Nat → AesState → AesState × List TraceRecord
  | 0, _, a => (a, [])
  | n + 1, r, a =>
    let rest := aesRounds W n (r + 1) (aesRoundState W r a)
    (rest.1, aesRoundRecords W r a ++ rest.2)

/-- The key words of the schedule by index. -/
def wordOf (W : Vector AesWord 44) (i : Nat) : AesWord := W.toList.getD i ⟨0, 0, 0, 0⟩

/-- The value XORed into `W[i-4]` (42_aes.md R190). -/
def tempOf (W : Vector AesWord 44) (i : Nat) : AesWord :=
  if i % 4 = 0 then (subWord (rotWord (wordOf W (i - 1)))).xor (rcon (i / 4)) else wordOf W (i - 1)

/-- C0 and D0, the halves of the permuted key (43_des.md R232). -/
def halfKey (key : BitVec 64) (first : Nat) : BitVec 28 := substring (permute 56 tablePC1 key) first 28

/-- The half after the rotations of rounds 1..i, which accumulate (43_des.md R232). -/
def rotated (half : BitVec 28) (i : Nat) : BitVec 28 := rol half ((shiftList.take i).sum)

/-- Round key i of a DES key (43_des.md R232). -/
def desKeyOf (key : BitVec 64) (i : Nat) : BitVec 48 :=
  permute 48 tablePC2 (rotated (halfKey key 1) i ++ rotated (halfKey key 29) i)

/-- The records of the key schedule of a DES key (43_des.md R232; 20_memory.md R78). -/
def scheduleRecords (key : BitVec 64) : List TraceRecord :=
  let c := halfKey key 1
  let d := halfKey key 29
  .pc1 key (permute 56 tablePC1 key) c d ::
    (List.range' 1 16).flatMap fun i =>
      [.ksshift i (shifts i) (rotated c (i - 1)) (rotated d (i - 1)) (rotated c i) (rotated d i),
       .pc2 i (rotated c i ++ rotated d i) (desKeyOf key i)]

/-- Round key i of the key file, i in 1..16. -/
def keyOf (K : Vector (BitVec 48) 16) (i : Nat) : BitVec 48 := K.toList.getD (i - 1) 0

/-- The halves after n Feistel rounds from round i on: `L[i] = R[i-1]; R[i] = L[i-1] XOR F(R[i-1], K[i])`
(43_des.md R234). -/
def feistelRounds (K : Vector (BitVec 48) 16) : Nat → Nat → BitVec 32 × BitVec 32 → BitVec 32 × BitVec 32
  | 0, _, lr => lr
  | n + 1, i, lr => feistelRounds K n (i + 1) (lr.2, lr.1 ^^^ feistel lr.2 (keyOf K i))

/-- The records of n Feistel rounds from round i on (43_des.md R229, R234; 20_memory.md R78). -/
def feistelTrace (K : Vector (BitVec 48) 16) : Nat → Nat → BitVec 32 × BitVec 32 → List TraceRecord
  | 0, _, _ => []
  | n + 1, i, lr =>
    let fo := feistel lr.2 (keyOf K i)
    let new := lr.1 ^^^ fo
    feistelRecords i lr.2 (keyOf K i) ++ [.lxor i lr.1 fo new, .dround i lr.1 lr.2 lr.2 new] ++
      feistelTrace K n (i + 1) (lr.2, new)

/-- The row of a chunk given as an integer (43_des.md R228). -/
def chunkRow (x : Nat) : Nat := 2 * (x / 32 % 2) + x % 2

/-- The column of a chunk given as an integer (43_des.md R228). -/
def chunkCol (x : Nat) : Nat := x / 2 % 16

/-- Chunk j, 1..8, of a 48-bit string as an integer (43_des.md R229). -/
def chunkValue (X : BitVec 48) (j : Nat) : Nat := X.toNat / 2 ^ (48 - 6 * j) % 64

end Sys2Proof.Claims

open Sys2Proof Sys2Proof.Machine Sys2Proof.Claims

/-! ## The engine: steps, modes, faults, reset -/

/-- A step takes the oldest packet off CMD and runs the command it decodes to (20_memory.md R64). That a step is one
packet and that CMD is a list is how the model arranges it (log 1, log 2). -/
def Obligations.StepRunsDecodedCommand : Prop :=
  ∀ (s : State) (pkt : Packet) (rest : List Packet) (i : Instr),
    s.rstN = true → s.cmd = pkt :: rest → decode pkt = .ok i → step s = exec i { s with cmd := rest }

/-- A packet that decodes to no command makes the engine take the decoder's fault, recorded with the packet's first byte
(30_encoding.md R114; 60_exceptions.md R283, R290). -/
def Obligations.UndecodablePacketTakesFault : Prop :=
  ∀ (s : State) (pkt : Packet) (rest : List Packet) (code : FaultCode),
    s.rstN = true → s.cmd = pkt :: rest → s.MODE = .run → decode pkt = .error code →
      (code = .eOpcode ∨ code = .eFormat) ∧
      (pkt = [] → code = .eFormat) ∧
      ∃ t, step s = .next t ∧
        t = faultTaken { s with cmd := rest } (if code = .eOpcode then 1 else 2) (if h : pkt = [] then 0 else pkt.head h) ∧
        t.faultPin = true

/-- FAULTED mode (60_exceptions.md R286): the exact packets of SYS.RESET and SYS.RDSTAT execute, any other packet, legal
or not, is answered 07 and changes nothing. -/
def Obligations.FaultedModeExecutesOnlyResetAndStatus : Prop :=
  ∀ (s : State) (pkt : Packet) (rest : List Packet),
    s.rstN = true → s.cmd = pkt :: rest → s.MODE = .faulted →
      step s = .next
        (if pkt = [0x01] then
          { State.reset with cmd := rest, cmdPart := s.cmdPart, rsp := s.rsp ++ [[0x00]], trc := s.trc }
         else if pkt = [0x02] then
          { s with cmd := rest, rsp := s.rsp ++ [[0x00, s.sr0, s.sr1, s.sr2, s.sr3, s.sr4, s.sr5]] }
         else { s with cmd := rest, rsp := s.rsp ++ [[0x07]] })

/-- Each of the 34 other commands, taken by itself, is refused in FAULTED mode with nothing changed (60_exceptions.md
R286, R288; the spec marks R288 as its own inference). That the mode test stands in each command's meaning is the
model's choice (log 8). -/
def Obligations.OtherCommandsRefusedWhenFaulted : Prop :=
  ∀ (i : Instr) (s : State), s.MODE = .faulted → i ≠ .sysReset → i ≠ .sysRdstat →
    exec i s = .next { s with rsp := s.rsp ++ [[0x07]] }

/-- The mode goes from FAULTED to RUN only by SYS.RESET or a hard reset, and from RUN to FAULTED only with a fault code
recorded and given as the response (60_exceptions.md R287, R291). -/
def Obligations.ModeChangesOnlyByFaultAndReset : Prop :=
  ∀ s t : State, step s = .next t →
    (s.MODE = .faulted → t.MODE = .run → s.rstN = false ∨ ∃ rest, s.cmd = [0x01] :: rest) ∧
    (s.MODE = .run → t.MODE = .faulted →
      ∃ pkt rest, s.cmd = pkt :: rest ∧ 1 ≤ t.ERRCODE.toNat ∧ t.ERRCODE.toNat ≤ 6 ∧ t.ERROP = pkt.headD 0 ∧
        t.rsp = s.rsp ++ [[t.ERRCODE]])

/-- A low `rst_n` puts every register at its reset value and discards every packet; with no packet the engine waits and
holds its state (70_reset_and_hazards.md R310; 60_exceptions.md R295). That these are steps of the model, and that the
pin is a field, is the model's choice (log 1, log 4). -/
def Obligations.HardResetAndWaiting : Prop :=
  (∀ s : State, s.rstN = false → step s = .next { State.reset with rstN := false }) ∧
  (∀ s : State, (s.driveRstN false).driveRstN true = State.reset) ∧
  (∀ s : State, s.rstN = true → s.cmd = [] → step s = .next s)

/-- The reset values of 10_state.md R39, and the streams and the pin `fault` after a hard reset
(70_reset_and_hazards.md R310). -/
def Obligations.ResetLeavesTheTabledValues : Prop :=
  (∀ r c, State.reset.S.get r c = 0) ∧ (∀ i : Fin 44, State.reset.W[i] = ⟨0, 0, 0, 0⟩) ∧ State.reset.ARND = 0 ∧
  State.reset.ASV = false ∧ State.reset.AKV = false ∧ State.reset.AKSV = false ∧ State.reset.DB = 0 ∧
  State.reset.DK = 0 ∧ State.reset.L = 0 ∧ State.reset.R = 0 ∧ State.reset.C = 0 ∧ State.reset.D = 0 ∧
  (∀ i : Fin 16, State.reset.K[i] = 0) ∧ State.reset.DRND = 0 ∧ State.reset.DBV = false ∧ State.reset.DKV = false ∧
  State.reset.DKSV = false ∧ (∀ i : Fin 64, State.reset.PT[i] = 0) ∧ State.reset.PTLEN = 0 ∧
  State.reset.MODE = .run ∧ State.reset.ERRCODE = 0 ∧ State.reset.ERROP = 0 ∧ State.reset.cmd = [] ∧
  State.reset.cmdPart = [] ∧ State.reset.rsp = [] ∧ State.reset.trc = [] ∧ State.reset.faultPin = false

/-- Every command is defined in every state for every packet: each step answers a next state
(93_implementation_defined.md section 1; 70_reset_and_hazards.md R313). That a step with no packet waits is the model's
choice (log 1). -/
def Obligations.EveryStepAnswersNextState : Prop := ∀ s : State, ∃ t, step s = .next t

/-- Faults are precise and commands all-or-nothing (60_exceptions.md R284): in RUN mode a command either completes with a
success response and stays in RUN mode, or takes one fault and has written and traced nothing. The spec marks R284 as
its own inference from the command rules. -/
def Obligations.FaultsArePreciseForEveryCommand : Prop :=
  ∀ (i : Instr) (s t : State), s.MODE = .run → exec i s = .next t →
    (t.MODE = .run ∧ t.ERRCODE = (if i = .sysReset then 0 else s.ERRCODE) ∧ ∃ result, t.rsp = s.rsp ++ [0x00 :: result]) ∨
    (∃ code : Byte, 1 ≤ code.toNat ∧ code.toNat ≤ 6 ∧ t = faultTaken s code i.opcode)

/-- The ranges of 10_state.md R40, which the spec marks as its own inference from the command rules, hold right after
reset. -/
def Obligations.RangesHoldAtReset : Prop := State.reset.InRange

/-- Every step keeps the ranges of 10_state.md R40, which the spec marks as its own inference from the command rules. -/
def Obligations.EveryStepKeepsTheRanges : Prop :=
  ∀ s t : State, s.InRange → step s = .next t → t.InRange

/-- Every packet, whatever it contains and in whatever mode, is taken off CMD and gives exactly one response, placed
after those of the packets before it: a status byte 0..7, and a result only when the status is 0 (20_memory.md R65,
R68). -/
def Obligations.OneResponsePerPacket : Prop :=
  ∀ (s t : State) (pkt : Packet) (rest : List Packet),
    s.rstN = true → s.cmd = pkt :: rest → step s = .next t →
      t.cmd = rest ∧ t.cmdPart = s.cmdPart ∧ t.rstN = true ∧
      ∃ (status : Byte) (result : List Byte), t.rsp = s.rsp ++ [status :: result] ∧ status.toNat ≤ 7 ∧
        (status ≠ 0 → result = [])

/-- A command only adds to TRC, and what it adds are packets of the record kinds of 20_memory.md R77 and R78; the commands
of R79, and a command after which the mode is FAULTED, add none (20_memory.md R66, R75, R79). -/
def Obligations.TraceOnlyGrowsByRecords : Prop :=
  ∀ (i : Instr) (s t : State), exec i s = .next t →
    ∃ ts : List TraceRecord, t.trc = s.trc ++ ts.map TraceRecord.packet ∧
      (t.MODE = .faulted → ts = []) ∧
      (i ∉ [Instr.aesKeyexp, .aesSubbytes, .aesShiftrows, .aesMixcols, .aesRound, .aesEnc, .desKeysched, .desIp,
            .desRound, .desFp, .desEnc] → (∀ k, i ≠ .aesAddrk k) → (∀ k, i ≠ .desF k) → ts = [])

/-- Every record kind has its own tag and its own fixed packet length, kind by kind as 20_memory.md R77 and R78 list them
(R75). -/
def Obligations.TraceRecordTagsAndLengths : Prop :=
  ∀ t : TraceRecord, ∃ (tag : Byte) (fields : List Byte), t.packet = tag :: fields ∧
    (tag.toNat, fields.length + 1) =
      (match t with
       | .ksword _ _ _ _ _ => (0x01, 18)
       | .sub _ _ _ => (0x02, 34)
       | .shift _ _ _ => (0x03, 34)
       | .mix _ _ _ => (0x04, 34)
       | .ark _ _ _ _ _ => (0x05, 51)
       | .around _ _ _ => (0x06, 34)
       | .afinal _ => (0x07, 17)
       | .pc1 _ _ _ _ => (0x10, 24)
       | .ksshift _ _ _ _ _ _ => (0x11, 19)
       | .pc2 _ _ _ => (0x12, 15)
       | .ip _ _ => (0x13, 17)
       | .expand _ _ _ => (0x14, 12)
       | .kxor _ _ _ _ => (0x15, 20)
       | .sbox _ _ _ _ _ _ => (0x16, 7)
       | .perm _ _ _ => (0x17, 10)
       | .lxor _ _ _ _ => (0x18, 14)
       | .dround _ _ _ _ _ => (0x19, 18)
       | .swap _ _ _ => (0x1A, 17)
       | .fp _ _ => (0x1B, 17)
       | .dfinal _ => (0x1C, 9))

/-- No command can observe the contents of a data register whose flag is 0: two states that differ only there answer
every command with the same response and the same trace, and again differ only there (10_state.md R39;
70_reset_and_hazards.md R312; both mark this as the spec's own inference). -/
def Obligations.InvalidRegistersAreUnobservable : Prop :=
  ∀ s t s' t' : State, s.LooksLike t → step s = .next s' → step t = .next t' → s'.LooksLike t'

/-- The sequencers (10_state.md R23, R24, R31): ARND is set to 0 by AES.LDBLK and reset, advanced by one by AES.ROUND,
left at 11 by AES.ENC; DRND likewise for the DES commands; nothing else writes them. -/
def Obligations.SequencersMoveOnlyAsTabled : Prop :=
  ∀ (i : Instr) (s t : State), s.MODE = .run → exec i s = .next t → t.MODE = .run →
    t.ARND.toNat =
      (match i with
       | .sysReset => 0
       | .aesLdblk _ => 0
       | .aesRound => s.ARND.toNat + 1
       | .aesEnc => 11
       | _ => s.ARND.toNat) ∧
    t.DRND.toNat =
      (match i with
       | .sysReset => 0
       | .desLdblk _ => 0
       | .desIp => 1
       | .desRound => s.DRND.toNat + 1
       | .desFp => 18
       | .desEnc => 18
       | _ => s.DRND.toNat)

/-- The valid flags (10_state.md R25, R32): each is set and cleared by the commands of its row and by reset, and by
nothing else. -/
def Obligations.ValidFlagsMoveOnlyAsTabled : Prop :=
  ∀ (i : Instr) (s t : State), s.MODE = .run → exec i s = .next t → t.MODE = .run →
    t.ASV = (match i with | .sysReset => false | .aesLdblk _ => true | _ => s.ASV) ∧
    t.AKV = (match i with | .sysReset => false | .aesLdkey _ => true | _ => s.AKV) ∧
    t.AKSV = (match i with | .sysReset => false | .aesLdkey _ => false | .aesKeyexp => true | _ => s.AKSV) ∧
    t.DBV = (match i with | .sysReset => false | .desLdblk _ => true | _ => s.DBV) ∧
    t.DKV = (match i with | .sysReset => false | .desLdkey _ => true | _ => s.DKV) ∧
    t.DKSV = (match i with | .sysReset => false | .desLdkey _ => false | .desKeysched => true | _ => s.DKSV)

/-- The units are independent (70_reset_and_hazards.md R313; 40_gf256.md R140; 41_bitvector_permutation.md R160): no
command of another unit changes an AES register, a DES register or the programmable table, and an AES or a DES command
does the same whatever the other unit's registers hold. R313 is marked as the spec's own inference. -/
def Obligations.UnitsAreIndependent : Prop :=
  (∀ (i : Instr) (s t : State), i ≠ .sysReset → exec i s = .next t →
    (unitOf i ≠ 3 → s.SameAes t) ∧ (unitOf i ≠ 4 → s.SameDes t) ∧ ((∀ es, i ≠ .bvLdt es) → s.SameTable t)) ∧
  (∀ (i : Instr) (s t s' t' : State), s.SameStatus t → s.rsp = t.rsp → s.trc = t.trc →
    exec i s = .next s' → exec i t = .next t' →
    (unitOf i = 3 → s.SameAes t → s'.SameAes t' ∧ s'.SameStatus t' ∧ s'.rsp = t'.rsp ∧ s'.trc = t'.trc) ∧
    (unitOf i = 4 → s.SameDes t → s'.SameDes t' ∧ s'.SameStatus t' ∧ s'.rsp = t'.rsp ∧ s'.trc = t'.trc))

/-! ## Encoding -/

/-- Decode and encode agree: decoding the packet of a well-formed command gives the command back, for every command and
every operand, and a packet that decodes is the packet of the well-formed command it decodes to, so that each packet has
one meaning and no byte of it is dropped (30_encoding.md R110 to R114). -/
def Obligations.DecodeAndEncodeAgree : Prop :=
  (∀ i : Instr, i.wf = true → decode (encode i) = .ok i) ∧
  ∀ (pkt : Packet) (i : Instr), decode pkt = .ok i → i.wf = true ∧ encode i = pkt

/-- The illegal opcodes are exactly the 220 values of 30_encoding.md R115, whatever follows them. -/
def Obligations.IllegalOpcodesAreExactlyTheUnlisted : Prop :=
  ∀ (op : Byte) (args : List Byte), decode (op :: args) = .error .eOpcode ↔
    (0x03 ≤ op.toNat ∧ op.toNat ≤ 0x0F) ∨ (0x15 ≤ op.toNat ∧ op.toNat ≤ 0x1F) ∨
    (0x24 ≤ op.toNat ∧ op.toNat ≤ 0x2F) ∨ (0x3C ≤ op.toNat ∧ op.toNat ≤ 0x3F) ∨
    (0x4C ≤ op.toNat ∧ op.toNat ≤ 0xFF)

/-- A packet of each unit, written out from 30_encoding.md R111 and R113, decodes to its command. -/
def Obligations.SamplePacketsDecode : Prop :=
  decode [0x02] = .ok .sysRdstat ∧
  decode [0x14, 0xdb, 0x13, 0x53, 0x45] = .ok (.gfMixcol 0xdb 0x13 0x53 0x45) ∧
  decode [0x22, 0x03, 0x03, 0xa0, 0xdf] = .ok (.bvXor 3 3 [0xa0] [0xdf]) ∧
  decode [0x36, 0x03] = .ok (.aesAddrk 3) ∧
  decode [0x4B, 0x01, 0x18] = .ok (.desSbox 1 0x18) ∧
  decode [0x21, 0x07, 0x08] = .error .eFormat ∧ decode [0x99, 0x01, 0x02] = .error .eOpcode

/-- The assembler's example lines (30_encoding.md R116) and the expansions of the pseudo-instructions (R117). One blank
after the mnemonic is the model's reading of a line (log 15). -/
def Obligations.AssemblerLinesGiveTheirPackets : Prop :=
  assembleLine "AES.ADDRK 3".toList = some [[0x36, 0x03]] ∧
  assembleLine "DES.LDKEY \"ABCDEFGH\"".toList = some [[0x41, 0x41, 0x42, 0x43, 0x44, 0x45, 0x46, 0x47, 0x48]] ∧
  assembleLine "BV.ROL 28, 2, x\"f0ccaaf0\"".toList = some [[0x23, 0x1c, 0x02, 0xf0, 0xcc, 0xaa, 0xf0]] ∧
  assembleLine "AES.SIM \"A\", \"B\" ; text, key".toList = some [[0x31, 0x42], [0x32], [0x30, 0x41], [0x38]] ∧
  assembleLine "DES.SIM \"A\", \"B\"".toList = some [[0x41, 0x42], [0x42], [0x40, 0x41], [0x46]] ∧
  assembleLine "AES.STEPALL".toList = some (List.replicate 11 [0x37]) ∧
  assembleLine "DES.STEPALL".toList = some ([0x43] :: (List.replicate 16 [0x44] ++ [[0x45]]))

/-- A packet whose bytes are transferred on CMD, the last one marked, arrives whole behind the packets before it, and a
packet at the head of RSP or of TRC is taken as its bytes, the last one marked (20_memory.md R62, R63). That the streams
are lists of packets is how the model arranges them (log 2, log 3). -/
def Obligations.PacketsCrossThePortsWhole : Prop :=
  (∀ (s : State) (pkt : Packet), s.rstN = true → s.cmdPart = [] → pkt ≠ [] →
    s.sendBytes (framed pkt) = { s with cmd := s.cmd ++ [pkt] }) ∧
  (∀ (s : State) (b c : Byte) (bs : List Byte) (rest : List Packet), s.rsp = (b :: c :: bs) :: rest →
    s.takeRspByte = some ((b, false), { s with rsp := (c :: bs) :: rest })) ∧
  (∀ (s : State) (b : Byte) (rest : List Packet), s.rsp = [b] :: rest →
    s.takeRspByte = some ((b, true), { s with rsp := rest })) ∧
  (∀ (s : State) (b c : Byte) (bs : List Byte) (rest : List Packet), s.trc = (b :: c :: bs) :: rest →
    s.takeTrcByte = some ((b, false), { s with trc := (c :: bs) :: rest })) ∧
  (∀ (s : State) (b : Byte) (rest : List Packet), s.trc = [b] :: rest →
    s.takeTrcByte = some ((b, true), { s with trc := rest }))

/-! ## System commands -/

/-- SYS.NOP, SYS.RESET and SYS.RDSTAT (44_system.md R271 to R273), the last two in both modes. -/
def Obligations.SysCommandsEffect : Prop :=
  PacketF0 0x00 .sysNop ∧ PacketF0 0x01 .sysReset ∧ PacketF0 0x02 .sysRdstat ∧
  ∀ s : State,
    (s.MODE = .run → exec .sysNop s = .next (answered s [])) ∧
    (s.MODE = .faulted → exec .sysNop s = .next { s with rsp := s.rsp ++ [[0x07]] }) ∧
    exec .sysReset s = .next
      { State.reset with cmd := s.cmd, cmdPart := s.cmdPart, rsp := s.rsp ++ [[0x00]], trc := s.trc, rstN := s.rstN } ∧
    ∃ b0 b3 b4 b5 : Byte, exec .sysRdstat s = .next (answered s [b0, s.ERRCODE, s.ERROP, b3, b4, b5]) ∧
      b0.toNat = (if s.MODE = .faulted then 1 else 0) ∧
      b3.toNat = 128 * s.ASV.toNat + 64 * s.AKV.toNat + 32 * s.AKSV.toNat + s.ARND.toNat ∧
      b4.toNat = 128 * s.DBV.toNat + 64 * s.DKV.toNat + 32 * s.DKSV.toNat + s.DRND.toNat ∧
      b5.toNat = s.PTLEN.toNat

/-! ## GF(2^8) -/

/-- GF.ADD, GF.MUL2 and GF.MUL3 (40_gf256.md R141 to R143, R147 to R149), doubling by the 9-bit form of R142. -/
def Obligations.GfAddAndDoublingEffect : Prop :=
  PacketF2 0x10 .gfAdd ∧ PacketF1 0x11 .gfMul2 ∧ PacketF1 0x12 .gfMul3 ∧
  ∀ (s : State) (a b : Byte), s.MODE = .run →
    exec (.gfAdd a b) s = .next (answered s [a ^^^ b]) ∧
    ∃ d : Byte, d.toNat = (if b.toNat < 128 then 2 * b.toNat else (2 * b.toNat) ^^^ 0x11B) ∧
      exec (.gfMul2 b) s = .next (answered s [d]) ∧ exec (.gfMul3 b) s = .next (answered s [d ^^^ b])

/-- GF.MUL gives the product of its operands as polynomials over GF(2), reduced modulo x^8 + x^4 + x^3 + x + 1
(40_gf256.md R144, R150). -/
def Obligations.GfMulIsThePolynomialProduct : Prop :=
  PacketF2 0x13 .gfMul ∧
  ∀ (s : State) (a b : Byte), s.MODE = .run →
    ∃ p : Byte, exec (.gfMul a b) s = .next (answered s [p]) ∧
      polynomial p = (polynomial a * polynomial b) %ₘ modulus

/-- The laws of 40_gf256.md R146, which the spec marks as its own inference for some of them, with associativity and
distribution, the laws of a field product. -/
def Obligations.GfArithmeticLaws : Prop :=
  ∀ a b c : Byte,
    gfMul a b = gfMul b a ∧ gfAdd a a = 0 ∧ (0x80 ≤ b.toNat → gfMul2 b ≠ b <<< 1) ∧
    gfMul a 0 = 0 ∧ gfMul 0 a = 0 ∧ gfMul a 1 = a ∧ gfMul 2 b = gfMul2 b ∧ gfMul 3 b = gfMul3 b ∧
    gfMul (gfMul a b) c = gfMul a (gfMul b c) ∧ gfMul a (gfAdd b c) = gfAdd (gfMul a b) (gfMul a c)

/-- GF.MIXCOL multiplies the column by the matrix of 40_gf256.md R145 (R151). -/
def Obligations.GfMixcolIsTheMatrixProduct : Prop :=
  (∀ c0 c1 c2 c3 : Byte, decode [0x14, c0, c1, c2, c3] = .ok (.gfMixcol c0 c1 c2 c3)) ∧
  (∀ args : List Byte, args.length ≠ 4 → decode (0x14 :: args) = .error .eFormat) ∧
  ∀ (s : State) (c0 c1 c2 c3 : Byte), s.MODE = .run →
    let c : AesWord := ⟨c0, c1, c2, c3⟩
    exec (.gfMixcol c0 c1 c2 c3) s = .next (answered s [mixedByte c 0, mixedByte c 1, mixedByte c 2, mixedByte c 3])

/-! ## The bit-vector unit -/

/-- BV.LDT (41_bitvector_permutation.md R162). -/
def Obligations.BvLdtEffect : Prop :=
  (∀ es : List Byte, decode (0x20 :: es) = if 1 ≤ es.length ∧ es.length ≤ 64 then .ok (.bvLdt es) else .error .eFormat) ∧
  ∀ (s : State) (es : List Byte), s.MODE = .run → 1 ≤ es.length → es.length ≤ 64 →
    ((∃ e ∈ es, e.toNat = 0 ∨ 64 < e.toNat) → exec (.bvLdt es) s = .next (faultTaken s 3 0x20)) ∧
    ((∀ e ∈ es, 1 ≤ e.toNat ∧ e.toNat ≤ 64) →
      ∃ (table : Vector (BitVec 7) 64) (len : BitVec 7),
        exec (.bvLdt es) s = .next (answered { s with PT := table, PTLEN := len } []) ∧ len.toNat = es.length ∧
        ∀ i : Fin 64, table[i].toNat = (es.getD i.val 0).toNat)

/-- BV.PERM (41_bitvector_permutation.md R161, R163; 00_scope.md R14): the table T that the selector names, the entries in
use of the programmable table for 0 and IP, FP, E, P, PC1, PC2 for 1 to 6; the faults in their order; and the response
whose position p is the input position that entry p of T names. -/
def Obligations.BvPermEffect : Prop :=
  (∀ (sel nbits : Byte) (data : List Byte), decode (0x21 :: sel :: nbits :: data) =
    if data.length = (nbits.toNat + 7) / 8 then .ok (.bvPerm sel nbits data) else .error .eFormat) ∧
  (∀ args : List Byte, args.length < 2 → decode (0x21 :: args) = .error .eFormat) ∧
  ∀ (s : State) (sel nbits : Byte) (data : List Byte), s.MODE = .run → data.length = (nbits.toNat + 7) / 8 →
    let T : List Nat :=
      if sel.toNat = 0 then (s.PT.toList.take s.PTLEN.toNat).map BitVec.toNat
      else [tableIP, tableFP, tableE, tableP, tablePC1, tablePC2].getD (sel.toNat - 1) []
    let legal := sel.toNat ≤ 6 ∧ 1 ≤ nbits.toNat ∧ nbits.toNat ≤ 64
    let loaded := sel.toNat = 0 → 1 ≤ s.PTLEN.toNat
    (¬ legal → exec (.bvPerm sel nbits data) s = .next (faultTaken s 3 0x21)) ∧
    (legal → ¬ loaded → exec (.bvPerm sel nbits data) s = .next (faultTaken s 5 0x21)) ∧
    (legal → loaded → (∃ t ∈ T, nbits.toNat < t) → exec (.bvPerm sel nbits data) s = .next (faultTaken s 6 0x21)) ∧
    (legal → loaded → (∀ t ∈ T, t ≤ nbits.toNat) →
      ∃ out, exec (.bvPerm sel nbits data) s = .next (answered s out) ∧
        SpellsBits out T.length fun p => bitOf data (T.getD p 0 - 1))

/-- BV.XOR (41_bitvector_permutation.md R164; 00_scope.md R14). -/
def Obligations.BvXorEffect : Prop :=
  (∀ (na nb : Byte) (data : List Byte), decode (0x22 :: na :: nb :: data) =
    let la := (na.toNat + 7) / 8
    if data.length = la + (nb.toNat + 7) / 8 then .ok (.bvXor na nb (data.take la) (data.drop la))
    else .error .eFormat) ∧
  (∀ args : List Byte, args.length < 2 → decode (0x22 :: args) = .error .eFormat) ∧
  ∀ (s : State) (na nb : Byte) (A B : List Byte), s.MODE = .run → A.length = (na.toNat + 7) / 8 →
    B.length = (nb.toNat + 7) / 8 →
    let legal := 1 ≤ na.toNat ∧ na.toNat ≤ 64 ∧ 1 ≤ nb.toNat ∧ nb.toNat ≤ 64
    (¬ legal → exec (.bvXor na nb A B) s = .next (faultTaken s 3 0x22)) ∧
    (legal → na ≠ nb → exec (.bvXor na nb A B) s = .next (faultTaken s 4 0x22)) ∧
    (legal → na = nb →
      ∃ out, exec (.bvXor na nb A B) s = .next (answered s out) ∧
        SpellsBits out na.toNat fun p => bitOf A p ^^ bitOf B p)

/-- BV.ROL (41_bitvector_permutation.md R165; 00_scope.md R14): the rotation is within `nbits` bits. -/
def Obligations.BvRolEffect : Prop :=
  (∀ (nbits cnt : Byte) (data : List Byte), decode (0x23 :: nbits :: cnt :: data) =
    if data.length = (nbits.toNat + 7) / 8 then .ok (.bvRol nbits cnt data) else .error .eFormat) ∧
  (∀ args : List Byte, args.length < 2 → decode (0x23 :: args) = .error .eFormat) ∧
  ∀ (s : State) (nbits cnt : Byte) (data : List Byte), s.MODE = .run → data.length = (nbits.toNat + 7) / 8 →
    let legal := 1 ≤ nbits.toNat ∧ nbits.toNat ≤ 64 ∧ cnt.toNat < nbits.toNat
    (¬ legal → exec (.bvRol nbits cnt data) s = .next (faultTaken s 3 0x23)) ∧
    (legal →
      ∃ out, exec (.bvRol nbits cnt data) s = .next (answered s out) ∧
        SpellsBits out nbits.toNat fun p => bitOf data ((cnt.toNat + p) % nbits.toNat))

/-! ## The AES engine -/

/-- AES.LDBLK and AES.LDKEY (42_aes.md R193, R194, R188): zero-padded, cut after 16 bytes, column by column. -/
def Obligations.AesLoadsEffect : Prop :=
  PacketFD 0x30 .aesLdblk ∧ PacketFD 0x31 .aesLdkey ∧
  ∀ (s : State) (data : List Byte), s.MODE = .run →
    (∃ block : AesState,
      exec (.aesLdblk data) s = .next (answered { s with S := block, ASV := true, ARND := 0 } []) ∧
      ∀ r c : Fin 4, block.get r c = data.getD (r.val + 4 * c.val) 0x00) ∧
    (∃ words : Vector AesWord 44,
      exec (.aesLdkey data) s = .next (answered { s with W := words, AKV := true, AKSV := false } []) ∧
      (∀ i : Fin 44, i.val < 4 → ∀ r : Fin 4, words[i].get r = data.getD (4 * i.val + r.val) 0x00) ∧
      ∀ i : Fin 44, 4 ≤ i.val → words[i] = s.W[i])

/-- AES.KEYEXP (42_aes.md R189, R190, R195): `W[4..43]` satisfy the recurrence, `W[0..3]` stay, and one record is emitted
for each derived word. -/
def Obligations.AesKeyexpEffect : Prop :=
  PacketF0 0x32 .aesKeyexp ∧
  ∀ s : State, s.MODE = .run →
    (s.AKV = false → exec .aesKeyexp s = .next (faultTaken s 5 0x32)) ∧
    (s.AKV = true →
      ∃ words : Vector AesWord 44,
        exec .aesKeyexp s = .next (answered { s with
          W := words
          AKSV := true
          trc := s.trc ++ (List.range' 4 40).map fun i =>
            (TraceRecord.ksword i (wordOf words (i - 1)) (wordOf words (i - 4)) (tempOf words i) (wordOf words i)).packet }
          []) ∧
        (∀ i < 4, wordOf words i = wordOf s.W i) ∧
        ∀ i, 4 ≤ i → i < 44 → wordOf words i = (wordOf words (i - 4)).xor (tempOf words i))

/-- AES.SUBBYTES, AES.SHIFTROWS and AES.MIXCOLS (42_aes.md R181, R184, R185, R196 to R198), cell by cell, with the trace
packet each emits. -/
def Obligations.AesTransformsEffect : Prop :=
  PacketF0 0x33 .aesSubbytes ∧ PacketF0 0x34 .aesShiftrows ∧ PacketF0 0x35 .aesMixcols ∧
  ∀ s : State, s.MODE = .run →
    (s.ASV = false →
      exec .aesSubbytes s = .next (faultTaken s 5 0x33) ∧ exec .aesShiftrows s = .next (faultTaken s 5 0x34) ∧
      exec .aesMixcols s = .next (faultTaken s 5 0x35)) ∧
    (s.ASV = true →
      ∃ a b c : AesState,
        exec .aesSubbytes s = .next (answered
          { s with S := a, trc := s.trc ++ [0x02 :: s.ARND.setWidth 8 :: (s.S.bytes ++ a.bytes)] } []) ∧
        exec .aesShiftrows s = .next (answered
          { s with S := b, trc := s.trc ++ [0x03 :: s.ARND.setWidth 8 :: (s.S.bytes ++ b.bytes)] } []) ∧
        exec .aesMixcols s = .next (answered
          { s with S := c, trc := s.trc ++ [0x04 :: s.ARND.setWidth 8 :: (s.S.bytes ++ c.bytes)] } []) ∧
        ∀ row col : Fin 4, a.get row col = sbox (s.S.get row col) ∧ b.get row col = s.S.get row (col + row) ∧
          c.get row col = mixedByte (s.S.col col) row)

/-- AES.ADDRK (42_aes.md R186, R187, R199). -/
def Obligations.AesAddrkEffect : Prop :=
  PacketF1 0x36 .aesAddrk ∧
  ∀ (s : State) (k : Byte), s.MODE = .run →
    (10 < k.toNat → exec (.aesAddrk k) s = .next (faultTaken s 3 0x36)) ∧
    (k.toNat ≤ 10 → (s.ASV = false ∨ s.AKSV = false) → exec (.aesAddrk k) s = .next (faultTaken s 5 0x36)) ∧
    (k.toNat ≤ 10 → s.ASV = true → s.AKSV = true →
      ∃ a : AesState,
        exec (.aesAddrk k) s = .next (answered { s with
          S := a
          trc := s.trc ++ [0x05 :: s.ARND.setWidth 8 :: k ::
            (s.S.bytes ++ (roundKeyOf s.W k.toNat).bytes ++ a.bytes)] } []) ∧
        ∀ row col : Fin 4, a.get row col = s.S.get row col ^^^ (wordOf s.W (4 * k.toNat + col.val)).get row)

/-- AES.ROUND performs the round numbered ARND (42_aes.md R191, R192, R200). -/
def Obligations.AesRoundEffect : Prop :=
  PacketF0 0x37 .aesRound ∧
  ∀ s : State, s.MODE = .run →
    ((s.ASV = false ∨ s.AKSV = false ∨ 10 < s.ARND.toNat) → exec .aesRound s = .next (faultTaken s 5 0x37)) ∧
    (s.ASV = true → s.AKSV = true → s.ARND.toNat ≤ 10 →
      let r := s.ARND.toNat
      exec .aesRound s = .next (answered { s with
        S := aesRoundState s.W r s.S
        ARND := BitVec.ofNat 4 (r + 1)
        trc := s.trc ++ (aesRoundRecords s.W r s.S).map TraceRecord.packet } []))

/-- AES.ENC performs the rounds that remain, from ARND to 10, and returns the state read out column-major (42_aes.md
R192, R201). -/
def Obligations.AesEncEffect : Prop :=
  PacketF0 0x38 .aesEnc ∧
  ∀ s : State, s.MODE = .run →
    ((s.ASV = false ∨ s.AKSV = false ∨ 10 < s.ARND.toNat) → exec .aesEnc s = .next (faultTaken s 5 0x38)) ∧
    (s.ASV = true → s.AKSV = true → s.ARND.toNat ≤ 10 →
      let r := s.ARND.toNat
      let z := aesRounds s.W (11 - r) r s.S
      exec .aesEnc s = .next
        (answered { s with S := z.1, ARND := 11, trc := s.trc ++ z.2.map TraceRecord.packet } z.1.bytes))

/-- Stepping equals running: AES.STEPALL from ARND = 0 ends in the same registers with the same trace as AES.ENC, and
after an AES.ROUND an AES.ENC finishes the job with the same result (30_encoding.md R117; 42_aes.md R201). -/
def Obligations.AesSteppingEqualsRunning : Prop :=
  ∀ s : State, s.MODE = .run → s.ASV = true → s.AKSV = true →
    (s.ARND = 0 →
      ∃ v, exec .aesEnc s = .next v ∧
        execAll Pseudo.aesStepall.expand s = some { v with rsp := s.rsp ++ List.replicate 11 [0x00] }) ∧
    (s.ARND.toNat ≤ 9 →
      ∃ (v : State) (ct : List Byte), exec .aesEnc s = .next v ∧ v.rsp = s.rsp ++ [0x00 :: ct] ∧
        execAll [.aesRound, .aesEnc] s = some { v with rsp := s.rsp ++ [[0x00], 0x00 :: ct] })

/-- A whole AES encryption emits 52 trace packets, of which exactly 11 are round-level records, for rounds 0..10 in order,
and the final record last (20_memory.md R77; 42_aes.md R192, R201). -/
def Obligations.AesEncTraceCounts : Prop :=
  ∀ s t : State, s.MODE = .run → s.ASV = true → s.AKSV = true → s.ARND = 0 → exec .aesEnc s = .next t →
    ∃ extra : List Packet, t.trc = s.trc ++ extra ∧ extra.length = 52 ∧
      (extra.filter fun p => p.headD 0 == 0x06).map (fun p => (p.getD 1 0).toNat) = List.range 11 ∧
      extra.getLast? = some (0x07 :: t.S.bytes)

/-- AES.RDBLK, AES.RDRK and AES.SBOX (42_aes.md R202 to R204). -/
def Obligations.AesReadsEffect : Prop :=
  PacketF0 0x39 .aesRdblk ∧ PacketF1 0x3A .aesRdrk ∧ PacketF1 0x3B .aesSbox ∧
  ∀ (s : State) (k b : Byte), s.MODE = .run →
    (s.ASV = false → exec .aesRdblk s = .next (faultTaken s 5 0x39)) ∧
    (s.ASV = true → ∃ out, exec .aesRdblk s = .next (answered s out) ∧ out.length = 16 ∧
      ∀ row col : Fin 4, out.getD (row.val + 4 * col.val) 0 = s.S.get row col) ∧
    (10 < k.toNat → exec (.aesRdrk k) s = .next (faultTaken s 3 0x3A)) ∧
    (k.toNat ≤ 10 → s.AKSV = false → exec (.aesRdrk k) s = .next (faultTaken s 5 0x3A)) ∧
    (k.toNat ≤ 10 → s.AKSV = true → exec (.aesRdrk k) s = .next (answered s
      ((wordOf s.W (4 * k.toNat)).bytes ++ (wordOf s.W (4 * k.toNat + 1)).bytes ++
        (wordOf s.W (4 * k.toNat + 2)).bytes ++ (wordOf s.W (4 * k.toNat + 3)).bytes))) ∧
    (∃ v, exec (.aesSbox b) s = .next (answered s [v]) ∧
      v = (sboxRows.getD (b >>> 4).toNat []).getD (b &&& 0x0F).toNat 0)

/-- The AES S-box is the algebraic one of 42_aes.md R183: the affine image of the inverse in GF(2^8), a permutation of
the bytes with no fixed point. -/
def Obligations.AesSboxIsAffineImageOfInverse : Prop :=
  sbox 0 = 0x63 ∧
  (∀ a b : Byte, gfMul a b = 1 → sbox b = a ^^^ rotl8 a 1 ^^^ rotl8 a 2 ^^^ rotl8 a 3 ^^^ rotl8 a 4 ^^^ 0x63) ∧
  (∀ b : Byte, b ≠ 0 → ∃ a : Byte, gfMul a b = 1) ∧
  (∀ a b : Byte, sbox a = sbox b → a = b) ∧ ∀ b : Byte, sbox b ≠ b

/-- AES.SHIFTROWS four times, and AES.ADDRK twice with the same round key, restore the state register (42_aes.md R197,
R199). -/
def Obligations.AesTransformsThatRestoreTheState : Prop :=
  ∀ (s : State) (k : Byte), s.MODE = .run → s.ASV = true →
    (∃ t, execAll (List.replicate 4 .aesShiftrows) s = some t ∧ t.S = s.S) ∧
    (s.AKSV = true → k.toNat ≤ 10 → ∃ t, execAll [.aesAddrk k, .aesAddrk k] s = some t ∧ t.S = s.S)

/-! ## The DES engine -/

/-- DES.LDBLK and DES.LDKEY (43_des.md R230, R231): padded with spaces, cut after 8 bytes, position 1 the high bit of the
first byte. -/
def Obligations.DesLoadsEffect : Prop :=
  PacketFD 0x40 .desLdblk ∧ PacketFD 0x41 .desLdkey ∧
  ∀ (s : State) (data : List Byte), s.MODE = .run →
    ∃ X : BitVec 64, (∀ p < 64, X.getMsbD p = (data.getD (p / 8) 0x20).getMsbD (p % 8)) ∧
      exec (.desLdblk data) s = .next (answered { s with DB := X, DBV := true, DRND := 0 } []) ∧
      exec (.desLdkey data) s = .next (answered { s with DK := X, DKV := true, DKSV := false } [])

/-- DES.KEYSCHED (43_des.md R226, R232): the sixteen round keys, C16 = C0 and D16 = D0, and the 33 trace packets. -/
def Obligations.DesKeyschedEffect : Prop :=
  PacketF0 0x42 .desKeysched ∧
  ∀ s : State, s.MODE = .run →
    (s.DKV = false → exec .desKeysched s = .next (faultTaken s 5 0x42)) ∧
    (s.DKV = true →
      ∃ keys : Vector (BitVec 48) 16,
        exec .desKeysched s = .next (answered { s with
          C := halfKey s.DK 1
          D := halfKey s.DK 29
          K := keys
          DKSV := true
          trc := s.trc ++ (scheduleRecords s.DK).map TraceRecord.packet } []) ∧
        ∀ i, 1 ≤ i → i ≤ 16 → keyOf keys i = desKeyOf s.DK i)

/-- Two keys that differ only in the low bit of each key byte give the same round keys (43_des.md R224). -/
def Obligations.DesKeyParityBitsAreIgnored : Prop :=
  ∀ s t s' t' : State, s.MODE = .run → t.MODE = .run → s.DKV = true → t.DKV = true →
    (∀ p < 64, p % 8 ≠ 7 → s.DK.getMsbD p = t.DK.getMsbD p) →
    exec .desKeysched s = .next s' → exec .desKeysched t = .next t' → s'.K = t'.K

/-- FP is the inverse of IP, both ways (43_des.md R221, marked as the spec's own inference), and the tables have the lengths and the largest entries of
41_bitvector_permutation.md R161. -/
def Obligations.DesFinalPermutationInvertsInitial : Prop :=
  (∀ X : BitVec 64, permute 64 tableFP (permute 64 tableIP X) = X ∧ permute 64 tableIP (permute 64 tableFP X) = X) ∧
  [tableIP, tableFP, tableE, tableP, tablePC1, tablePC2].map (fun T => (T.length, T.foldl max 0)) =
    [(64, 64), (64, 64), (48, 32), (32, 32), (56, 63), (48, 56)]

/-- DES.IP and DES.FP (43_des.md R233, R235), position by position, with the trace packets they emit. -/
def Obligations.DesIpAndFpEffect : Prop :=
  PacketF0 0x43 .desIp ∧ PacketF0 0x45 .desFp ∧
  ∀ s : State, s.MODE = .run →
    ((s.DBV = false ∨ s.DRND ≠ 0) → exec .desIp s = .next (faultTaken s 5 0x43)) ∧
    (s.DBV = true → s.DRND = 0 →
      ∃ l r : BitVec 32,
        exec .desIp s = .next (answered { s with
          L := l, R := r, DRND := 1, trc := s.trc ++ [(TraceRecord.ip s.DB (l ++ r)).packet] } []) ∧
        ∀ p < 64, (l ++ r).getMsbD p = s.DB.getMsbD (tableIP.getD p 0 - 1)) ∧
    ((s.DBV = false ∨ s.DRND ≠ 17) → exec .desFp s = .next (faultTaken s 5 0x45)) ∧
    (s.DBV = true → s.DRND = 17 →
      ∃ out : BitVec 64,
        exec .desFp s = .next (answered { s with
          DB := out
          DRND := 18
          trc := s.trc ++ [(TraceRecord.swap s.L s.R (s.R ++ s.L)).packet, (TraceRecord.fp (s.R ++ s.L) out).packet,
            (TraceRecord.dfinal out).packet] } []) ∧
        ∀ p < 64, out.getMsbD p = (s.R ++ s.L).getMsbD (tableFP.getD p 0 - 1))

/-- The F-function (43_des.md R228, R229): the expanded R mixed with the key, eight chunks looked up in their S-boxes,
the 32 bits permuted by P. -/
def Obligations.DesFFunctionValue : Prop :=
  ∀ (r : BitVec 32) (key : BitVec 48),
    ∃ (X : BitVec 48) (B : BitVec 32),
      (∀ p < 48, X.getMsbD p = (r.getMsbD (tableE.getD p 0 - 1) ^^ key.getMsbD p)) ∧
      (∀ j, 1 ≤ j → j ≤ 8 → B.toNat / 2 ^ (32 - 4 * j) % 16 =
        desBoxEntry j (chunkRow (chunkValue X j)) (chunkCol (chunkValue X j))) ∧
      (∀ p < 32, (feistel r key).getMsbD p = B.getMsbD (tableP.getD p 0 - 1)) ∧
      ∀ i, feistelRecords i r key =
        [.expand i r (permute 48 tableE r), .kxor i (permute 48 tableE r) key X] ++
          (List.range' 1 8).map (fun j => TraceRecord.sbox i j (chunkValue X j) (chunkRow (chunkValue X j))
            (chunkCol (chunkValue X j)) (desBoxEntry j (chunkRow (chunkValue X j)) (chunkCol (chunkValue X j)))) ++
          [.perm i B (feistel r key)]

/-- DES.ROUND performs the Feistel round numbered DRND (43_des.md R234). -/
def Obligations.DesRoundEffect : Prop :=
  PacketF0 0x44 .desRound ∧
  ∀ s : State, s.MODE = .run →
    ((s.DBV = false ∨ s.DKSV = false ∨ s.DRND.toNat = 0 ∨ 16 < s.DRND.toNat) →
      exec .desRound s = .next (faultTaken s 5 0x44)) ∧
    (s.DBV = true → s.DKSV = true → 1 ≤ s.DRND.toNat → s.DRND.toNat ≤ 16 →
      let i := s.DRND.toNat
      exec .desRound s = .next (answered { s with
        L := s.R
        R := s.L ^^^ feistel s.R (keyOf s.K i)
        DRND := BitVec.ofNat 5 (i + 1)
        trc := s.trc ++ (feistelTrace s.K 1 i (s.L, s.R)).map TraceRecord.packet } []))

/-- DES.ENC performs the steps that remain and returns the ciphertext (43_des.md R233 to R236). -/
def Obligations.DesEncEffect : Prop :=
  PacketF0 0x46 .desEnc ∧
  ∀ s : State, s.MODE = .run →
    ((s.DBV = false ∨ s.DKSV = false ∨ 17 < s.DRND.toNat) → exec .desEnc s = .next (faultTaken s 5 0x46)) ∧
    (s.DBV = true → s.DKSV = true → s.DRND.toNat ≤ 17 →
      let X := permute 64 tableIP s.DB
      let start := if s.DRND = 0 then (substring X 1 32, substring X 33 32) else (s.L, s.R)
      let first := if s.DRND = 0 then 1 else s.DRND.toNat
      let lr := feistelRounds s.K (17 - first) first start
      let out := permute 64 tableFP (lr.2 ++ lr.1)
      exec .desEnc s = .next (answered { s with
        L := lr.1
        R := lr.2
        DB := out
        DRND := 18
        trc := s.trc ++ ((if s.DRND = 0 then [TraceRecord.ip s.DB X] else []) ++
          feistelTrace s.K (17 - first) first start ++
          [TraceRecord.swap lr.1 lr.2 (lr.2 ++ lr.1), TraceRecord.fp (lr.2 ++ lr.1) out, TraceRecord.dfinal out]).map
            TraceRecord.packet } (pack out)))

/-- Stepping equals running: DES.STEPALL from DRND = 0 ends in the same registers with the same trace as DES.ENC, and
after a DES.ROUND a DES.ENC finishes the job with the same result (30_encoding.md R117; 43_des.md R236). -/
def Obligations.DesSteppingEqualsRunning : Prop :=
  ∀ s : State, s.MODE = .run → s.DBV = true → s.DKSV = true →
    (s.DRND = 0 →
      ∃ v, exec .desEnc s = .next v ∧
        execAll Pseudo.desStepall.expand s = some { v with rsp := s.rsp ++ List.replicate 18 [0x00] }) ∧
    (1 ≤ s.DRND.toNat → s.DRND.toNat ≤ 16 →
      ∃ (v : State) (ct : List Byte), exec .desEnc s = .next v ∧ v.rsp = s.rsp ++ [0x00 :: ct] ∧
        execAll [.desRound, .desEnc] s = some { v with rsp := s.rsp ++ [[0x00], 0x00 :: ct] })

/-- A whole DES encryption emits 212 trace packets, of which exactly 16 are Feistel-round records, for rounds 1..16 in
order, and the ciphertext record last (20_memory.md R78; 43_des.md R236). -/
def Obligations.DesEncTraceCounts : Prop :=
  ∀ s t : State, s.MODE = .run → s.DBV = true → s.DKSV = true → s.DRND = 0 → exec .desEnc s = .next t →
    ∃ extra : List Packet, t.trc = s.trc ++ extra ∧ extra.length = 212 ∧
      (extra.filter fun p => p.headD 0 == 0x19).map (fun p => (p.getD 1 0).toNat) = List.range' 1 16 ∧
      extra.getLast? = some (0x1C :: pack t.DB)

/-- DES.RDBLK, DES.RDLR and DES.RDRK (43_des.md R237 to R239). -/
def Obligations.DesReadsEffect : Prop :=
  PacketF0 0x47 .desRdblk ∧ PacketF0 0x48 .desRdlr ∧ PacketF1 0x49 .desRdrk ∧
  ∀ (s : State) (i : Byte), s.MODE = .run →
    (s.DBV = false → exec .desRdblk s = .next (faultTaken s 5 0x47)) ∧
    (s.DBV = true → ∃ out, exec .desRdblk s = .next (answered s out) ∧ SpellsBits out 64 fun p => s.DB.getMsbD p) ∧
    ((s.DBV = false ∨ s.DRND = 0) → exec .desRdlr s = .next (faultTaken s 5 0x48)) ∧
    (s.DBV = true → s.DRND ≠ 0 → ∃ out, exec .desRdlr s = .next (answered s out) ∧
      SpellsBits out 64 fun p => if p < 32 then s.L.getMsbD p else s.R.getMsbD (p - 32)) ∧
    ((i.toNat = 0 ∨ 16 < i.toNat) → exec (.desRdrk i) s = .next (faultTaken s 3 0x49)) ∧
    (1 ≤ i.toNat → i.toNat ≤ 16 → s.DKSV = false → exec (.desRdrk i) s = .next (faultTaken s 5 0x49)) ∧
    (1 ≤ i.toNat → i.toNat ≤ 16 → s.DKSV = true → ∃ out, exec (.desRdrk i) s = .next (answered s out) ∧
      SpellsBits out 48 fun p => (keyOf s.K i.toNat).getMsbD p)

/-- DES.F applies the F-function to the current R with the round key named, writes no register and emits the 11 packets
(43_des.md R229, R240). -/
def Obligations.DesFEffect : Prop :=
  PacketF1 0x4A .desF ∧
  ∀ (s : State) (i : Byte), s.MODE = .run →
    ((i.toNat = 0 ∨ 16 < i.toNat) → exec (.desF i) s = .next (faultTaken s 3 0x4A)) ∧
    (1 ≤ i.toNat → i.toNat ≤ 16 → (s.DBV = false ∨ s.DKSV = false ∨ s.DRND = 0) →
      exec (.desF i) s = .next (faultTaken s 5 0x4A)) ∧
    (1 ≤ i.toNat → i.toNat ≤ 16 → s.DBV = true → s.DKSV = true → s.DRND ≠ 0 →
      ∃ out extra, exec (.desF i) s = .next (answered { s with trc := s.trc ++ extra } out) ∧
        SpellsBits out 32 (fun p => (feistel s.R (keyOf s.K i.toNat)).getMsbD p) ∧ extra.length = 11 ∧
        extra = (feistelRecords i.toNat s.R (keyOf s.K i.toNat)).map TraceRecord.packet)

/-- DES.SBOX: the outer bits of the chunk select the row and the inner four the column (43_des.md R228, R241). -/
def Obligations.DesSboxEffect : Prop :=
  PacketF2 0x4B .desSbox ∧
  ∀ (s : State) (j v : Byte), s.MODE = .run →
    ((j.toNat = 0 ∨ 8 < j.toNat ∨ 63 < v.toNat) → exec (.desSbox j v) s = .next (faultTaken s 3 0x4B)) ∧
    (1 ≤ j.toNat → j.toNat ≤ 8 → v.toNat ≤ 63 →
      ∃ out : Byte, exec (.desSbox j v) s = .next (answered s [out]) ∧ out.toNat ≤ 15 ∧
        out.toNat = desBoxEntry j.toNat (2 * (v.toNat / 32) + v.toNat % 2) (v.toNat / 2 % 16))

/-! ## Trace records -/

/-- The packet of every record kind, field by field in the order of 20_memory.md R77 and R78, with numeric fields of one
byte, words and states by their bytes and bit strings packed; and what those bytes spell (R70, R71, R76). -/
def Obligations.TraceRecordFieldsInOrder : Prop :=
  (∀ t : TraceRecord, t.packet =
    (match t with
     | .ksword i prev back temp word =>
       [0x01, BitVec.ofNat 8 i] ++ prev.bytes ++ back.bytes ++ temp.bytes ++ word.bytes
     | .sub r before after => [0x02, BitVec.ofNat 8 r] ++ before.bytes ++ after.bytes
     | .shift r before after => [0x03, BitVec.ofNat 8 r] ++ before.bytes ++ after.bytes
     | .mix r before after => [0x04, BitVec.ofNat 8 r] ++ before.bytes ++ after.bytes
     | .ark r k before key after =>
       [0x05, BitVec.ofNat 8 r, BitVec.ofNat 8 k] ++ before.bytes ++ key.bytes ++ after.bytes
     | .around r before after => [0x06, BitVec.ofNat 8 r] ++ before.bytes ++ after.bytes
     | .afinal final => [0x07] ++ final.bytes
     | .pc1 key permuted c d => [0x10] ++ pack key ++ pack permuted ++ pack c ++ pack d
     | .ksshift i n c d c' d' =>
       [0x11, BitVec.ofNat 8 i, BitVec.ofNat 8 n] ++ pack c ++ pack d ++ pack c' ++ pack d'
     | .pc2 i cd key => [0x12, BitVec.ofNat 8 i] ++ pack cd ++ pack key
     | .ip block permuted => [0x13] ++ pack block ++ pack permuted
     | .expand i r expanded => [0x14, BitVec.ofNat 8 i] ++ pack r ++ pack expanded
     | .kxor i expanded key mixed => [0x15, BitVec.ofNat 8 i] ++ pack expanded ++ pack key ++ pack mixed
     | .sbox i j chunk row col out =>
       [0x16, BitVec.ofNat 8 i, BitVec.ofNat 8 j, BitVec.ofNat 8 chunk, BitVec.ofNat 8 row, BitVec.ofNat 8 col,
        BitVec.ofNat 8 out]
     | .perm i looked permuted => [0x17, BitVec.ofNat 8 i] ++ pack looked ++ pack permuted
     | .lxor i l f r' => [0x18, BitVec.ofNat 8 i] ++ pack l ++ pack f ++ pack r'
     | .dround i l r l' r' => [0x19, BitVec.ofNat 8 i] ++ pack l ++ pack r ++ pack l' ++ pack r'
     | .swap l r swapped => [0x1A] ++ pack l ++ pack r ++ pack swapped
     | .fp swapped permuted => [0x1B] ++ pack swapped ++ pack permuted
     | .dfinal ciphertext => [0x1C] ++ pack ciphertext)) ∧
  (∀ w : AesWord, w.bytes = [w.w0, w.w1, w.w2, w.w3]) ∧
  (∀ a : AesState, a.bytes.length = 16 ∧
    ∀ row col : Fin 4, a.bytes.getD (row.val + 4 * col.val) 0 = a.get row col) ∧
  ∀ (n : Nat) (X : BitVec n), SpellsBits (pack X) n fun p => X.getMsbD p
end

