-- ==== Sys2Proof/Laws/Operands.lean ====
section
/-!
SUPPORT. What the operand forms give, cell by cell and position by position.
-/

namespace Sys2Proof

/-! ## AES words and states -/

@[simp] theorem AesWord.get_ofFn (f : Fin 4 → Byte) (r : Fin 4) : (AesWord.ofFn f).get r = f r := by
  match r with
  | 0 | 1 | 2 | 3 => rfl

@[simp] theorem AesState.col_ofCols (f : Fin 4 → AesWord) (c : Fin 4) : (AesState.ofCols f).col c = f c := by
  match c with
  | 0 | 1 | 2 | 3 => rfl

@[simp] theorem AesState.get_ofCols (f : Fin 4 → AesWord) (r c : Fin 4) : (AesState.ofCols f).get r c = (f c).get r := by
  simp [AesState.get]

@[simp] theorem AesState.get_ofFn (f : Fin 4 → Fin 4 → Byte) (r c : Fin 4) : (AesState.ofFn f).get r c = f r c := by
  simp [AesState.ofFn]

/-- Words with the same bytes are the same word. -/
theorem AesWord.ext_get {a b : AesWord} (h : ∀ r, a.get r = b.get r) : a = b := by
  cases a
  cases b
  have h0 := h 0
  have h1 := h 1
  have h2 := h 2
  have h3 := h 3
  simp only [AesWord.get] at h0 h1 h2 h3
  simp [h0, h1, h2, h3]

/-- States with the same cells are the same state. -/
theorem AesState.ext_get {a b : AesState} (h : ∀ r c, a.get r c = b.get r c) : a = b := by
  have hc : ∀ c, a.col c = b.col c := fun c => AesWord.ext_get fun r => h r c
  cases a
  cases b
  have h0 := hc 0
  have h1 := hc 1
  have h2 := hc 2
  have h3 := hc 3
  simp only [AesState.col] at h0 h1 h2 h3
  simp [h0, h1, h2, h3]

@[simp] theorem AesWord.get_xor (a b : AesWord) (r : Fin 4) : (a.xor b).get r = a.get r ^^^ b.get r := by
  simp [AesWord.xor]

@[simp] theorem AesState.get_xor (a b : AesState) (r c : Fin 4) : (a.xor b).get r c = a.get r c ^^^ b.get r c := by
  simp [AesState.xor]

@[simp] theorem AesWord.bytes_length (w : AesWord) : w.bytes.length = 4 := rfl

@[simp] theorem AesState.bytes_length (s : AesState) : s.bytes.length = 16 := rfl

/-- `state_of` undoes `bytes_of` (00_scope.md R11). -/
@[simp] theorem stateOf_bytes (s : AesState) : stateOf s.bytes = s := rfl

/-- A cell of the filled state is the byte at its place, "column-major" (00_scope.md R11). -/
@[simp] theorem stateOf_get (A : List Byte) (r c : Fin 4) : (stateOf A).get r c = A.getD (r.val + 4 * c.val) 0 := by
  simp [stateOf]

/-- The byte at place `r + 4c` of a block is the cell `[r][c]` (00_scope.md R11). -/
theorem AesState.bytes_getD (s : AesState) (r c : Fin 4) : s.bytes.getD (r.val + 4 * c.val) 0 = s.get r c := by
  conv_rhs => rw [← stateOf_bytes s, stateOf_get]

/-! ## Padding -/

@[simp] theorem padTo_length (n : Nat) (pad : Byte) (A : List Byte) : (padTo n pad A).length = n := by
  simp [padTo]

@[simp] theorem padz16_length (A : List Byte) : (padz16 A).length = 16 := by simp [padz16, Config.aesBytes]

@[simp] theorem pads8_length (A : List Byte) : (pads8 A).length = 8 := by simp [pads8, Config.desBytes]

/-- Byte i of padded data: the data's own while there is one, the pad byte beyond (00_scope.md R10). -/
theorem padTo_getD (n : Nat) (pad : Byte) (A : List Byte) (i : Nat) (h : i < n) :
    (padTo n pad A).getD i 0 = A.getD i pad := by
  simp only [padTo, List.getD_eq_getElem?_getD, List.getElem?_take, h, if_true, List.getElem?_append]
  by_cases hi : i < A.length
  · simp [hi]
  · have h2 : i - A.length < n := by omega
    simp [hi, h2]

/-! ## Bit strings -/

@[simp] theorem pack_length {n : Nat} (X : BitVec n) : (pack X).length = ceil8 n := by simp [pack]

/-- The output position p is the input position that entry p of the table names (00_scope.md R14). -/
theorem permute_getMsbD {n m : Nat} (T : List Nat) (X : BitVec n) (hm : T.length = m) (i : Nat) (hi : i < m) :
    (permute m T X).getMsbD i = X.getMsbD (T.getD i 0 - 1) := by
  subst hm
  have hl : (T.map fun t => X.getMsbD (t - 1)).length = T.length := by simp
  simp only [permute, BitVec.getMsbD_setWidth, BitVec.getMsbD_ofBoolListBE, hl, Nat.sub_self, Nat.zero_le, decide_true,
    Bool.true_and, Nat.add_sub_cancel]
  simp [List.getD_eq_getElem?_getD, List.getElem?_eq_getElem hi]

/-- A permutation of the pointwise exclusive-or is the exclusive-or of the permutations. -/
theorem permute_xor {n m : Nat} (T : List Nat) (X Y : BitVec n) (hm : T.length = m) :
    permute m T (X ^^^ Y) = permute m T X ^^^ permute m T Y := by
  apply BitVec.eq_of_getMsbD_eq
  intro i hi
  simp [permute_getMsbD T _ hm i hi]

/-- Position i of a substring is the position `first - 1 + i` of the whole, counting from 0 (00_scope.md R8). -/
theorem substring_getMsbD {n : Nat} (X : BitVec n) (first len i : Nat) (h1 : 1 ≤ first) (hn : first + len ≤ n + 1)
    (hi : i < len) : (substring X first len).getMsbD i = X.getMsbD (first - 1 + i) := by
  have h : n - (n + 1 - first - len + len - i) = first - 1 + i := by omega
  simp only [substring, BitVec.getMsbD_extractLsb', hi, decide_true, Bool.true_and, h]
  have h2 : n + 1 - first - len + len - i ≤ n := by omega
  simp [h2]

/-- Rotation: position i of the result is position `i + cnt`, round the string (00_scope.md R14). -/
theorem rol_getMsbD {n : Nat} (X : BitVec n) (cnt i : Nat) (hi : i < n) :
    (rol X cnt).getMsbD i = X.getMsbD ((cnt + i) % n) := by
  simp [rol, BitVec.getMsbD_rotateLeft, hi]

/-! ## Bit strings and bytes -/

theorem bytesValue_foldl (A : List Byte) (acc : Nat) :
    A.foldl (fun acc b => 256 * acc + b.toNat) acc = 2 ^ (8 * A.length) * acc + bytesValue A := by
  induction A generalizing acc with
  | nil => simp [bytesValue]
  | cons b A ih =>
    have hp : 2 ^ (8 * (b :: A).length) = 2 ^ (8 * A.length) * 256 := by
      rw [List.length_cons, Nat.mul_add, Nat.pow_add]
    simp only [bytesValue, List.foldl_cons]
    rw [ih, ih (256 * 0 + b.toNat), hp, Nat.mul_zero, Nat.zero_add, Nat.mul_add, Nat.mul_assoc, Nat.add_assoc]

theorem bytesValue_cons (b : Byte) (A : List Byte) :
    bytesValue (b :: A) = 2 ^ (8 * A.length) * b.toNat + bytesValue A := by
  simp only [bytesValue, List.foldl_cons, Nat.mul_zero, Nat.zero_add]
  exact bytesValue_foldl A b.toNat

theorem bytesValue_lt (A : List Byte) : bytesValue A < 2 ^ (8 * A.length) := by
  induction A with
  | nil => simp [bytesValue]
  | cons b A ih =>
    have hb : b.toNat < 256 := b.isLt
    have hp : 2 ^ (8 * (b :: A).length) = 2 ^ (8 * A.length) * 256 := by
      rw [List.length_cons, Nat.mul_add, Nat.pow_add]
    rw [bytesValue_cons, hp]
    have : 2 ^ (8 * A.length) * b.toNat ≤ 2 ^ (8 * A.length) * 255 := Nat.mul_le_mul_left _ (by omega)
    omega

theorem bytesValue_testBit (A : List Byte) (i j : Nat) (hi : i < A.length) (hj : j < 8) :
    (bytesValue A).testBit (8 * A.length - 1 - (8 * i + j)) = (A.getD i 0).getMsbD j := by
  induction A generalizing i with
  | nil => simp at hi
  | cons b A ih =>
    rw [bytesValue_cons, Nat.testBit_two_pow_mul_add _ (bytesValue_lt A)]
    cases i with
    | zero =>
      have h1 : ¬ 8 * (b :: A).length - 1 - (8 * 0 + j) < 8 * A.length := by simp; omega
      have h2 : 8 * (b :: A).length - 1 - (8 * 0 + j) - 8 * A.length = 7 - j := by simp; omega
      rw [if_neg h1, h2]
      simp [BitVec.getMsbD, BitVec.getLsbD, hj]
    | succ i =>
      have hi' : i < A.length := by simpa using hi
      have h1 : 8 * (b :: A).length - 1 - (8 * (i + 1) + j) < 8 * A.length := by simp; omega
      have h2 : 8 * (b :: A).length - 1 - (8 * (i + 1) + j) = 8 * A.length - 1 - (8 * i + j) := by simp; omega
      rw [if_pos h1, h2, ih i hi']
      simp

/-- Position `8i + j` of `bits(A)` is bit `7 - j` of byte i (00_scope.md R9; 20_memory.md R71). -/
theorem bits_getMsbD (A : List Byte) (i j : Nat) (hi : i < A.length) (hj : j < 8) :
    (bits A).getMsbD (8 * i + j) = (A.getD i 0).getMsbD j := by
  rw [← bytesValue_testBit A i j hi hj]
  have h : 8 * i + j < 8 * A.length := by omega
  have h2 : 8 * A.length - 1 - (8 * i + j) < 8 * A.length := by omega
  simp only [bits, BitVec.getMsbD, h, decide_true, Bool.true_and, BitVec.getLsbD_ofNat, h2]

/-- Position i of an operand is bit `7 - i mod 8` of its byte `i div 8` (20_memory.md R71). -/
theorem unpack_getMsbD (A : List Byte) (n i : Nat) (hn : n ≤ 8 * A.length) (hi : i < n) :
    (unpack A n).getMsbD i = (A.getD (i / 8) 0).getMsbD (i % 8) := by
  rw [← bits_getMsbD A (i / 8) (i % 8) (by omega) (by omega)]
  have h : 8 * A.length - (8 * A.length - n + n - i) = 8 * (i / 8) + i % 8 := by omega
  simp only [unpack, BitVec.getMsbD_extractLsb', hi, decide_true, Bool.true_and, h]
  have h2 : 8 * A.length - n + n - i ≤ 8 * A.length := by omega
  simp [h2]

/-- Bit `7 - j` of byte i of a packed bit string is its position `8i + j`, and 0 beyond its end (20_memory.md R71). -/
theorem pack_getMsbD {n : Nat} (X : BitVec n) (i j : Nat) (hi : i < ceil8 n) (hj : j < 8) :
    ((pack X).getD i 0).getMsbD j = X.getMsbD (8 * i + j) := by
  have hc : n ≤ 8 * ceil8 n := by simp only [ceil8]; omega
  have hr : i < (List.range (ceil8 n)).length := by simpa using hi
  have hlen : n + (8 * ceil8 n - n) - (8 * (ceil8 n - 1 - i) + 8 - j) = 8 * i + j := by omega
  have hle : 8 * (ceil8 n - 1 - i) + 8 - j ≤ n + (8 * ceil8 n - n) := by omega
  simp only [pack, List.getD_eq_getElem?_getD, List.getElem?_map, List.getElem?_eq_getElem hr, List.getElem_range,
    Option.map_some, Option.getD_some, BitVec.getMsbD_extractLsb', hj, decide_true, Bool.true_and, hlen, hle,
    BitVec.getMsbD_append]
  by_cases h : n ≤ 8 * i + j
  · rw [if_pos h]
    simp [BitVec.getMsbD_of_ge _ _ h]
  · rw [if_neg h]

/-- Unpacking what was packed gives the bit string back (00_scope.md R9). -/
theorem unpack_pack {n : Nat} (X : BitVec n) : unpack (pack X) n = X := by
  have hc : n ≤ 8 * ceil8 n := by simp only [ceil8]; omega
  apply BitVec.eq_of_getMsbD_eq
  intro i hi
  rw [unpack_getMsbD (pack X) n i (by simpa using hc) hi,
    pack_getMsbD X (i / 8) (i % 8) (by simp only [ceil8]; omega) (by omega)]
  congr 1
  omega

end Sys2Proof
end

