-- ==== Sys2Proof/Laws/State.lean ====
section
/-!
SUPPORT. One lemma per field per shared update of State, each true by rfl, so that no later proof unfolds a record
update.
-/

namespace Sys2Proof.Machine

/-! ## A response -/

section

variable (s : State) (status : Byte) (result : List Byte)

@[simp] theorem State.respond_S : (s.respond status result).S = s.S := rfl

@[simp] theorem State.respond_W : (s.respond status result).W = s.W := rfl

@[simp] theorem State.respond_ARND : (s.respond status result).ARND = s.ARND := rfl

@[simp] theorem State.respond_ASV : (s.respond status result).ASV = s.ASV := rfl

@[simp] theorem State.respond_AKV : (s.respond status result).AKV = s.AKV := rfl

@[simp] theorem State.respond_AKSV : (s.respond status result).AKSV = s.AKSV := rfl

@[simp] theorem State.respond_DB : (s.respond status result).DB = s.DB := rfl

@[simp] theorem State.respond_DK : (s.respond status result).DK = s.DK := rfl

@[simp] theorem State.respond_L : (s.respond status result).L = s.L := rfl

@[simp] theorem State.respond_R : (s.respond status result).R = s.R := rfl

@[simp] theorem State.respond_C : (s.respond status result).C = s.C := rfl

@[simp] theorem State.respond_D : (s.respond status result).D = s.D := rfl

@[simp] theorem State.respond_K : (s.respond status result).K = s.K := rfl

@[simp] theorem State.respond_DRND : (s.respond status result).DRND = s.DRND := rfl

@[simp] theorem State.respond_DBV : (s.respond status result).DBV = s.DBV := rfl

@[simp] theorem State.respond_DKV : (s.respond status result).DKV = s.DKV := rfl

@[simp] theorem State.respond_DKSV : (s.respond status result).DKSV = s.DKSV := rfl

@[simp] theorem State.respond_PT : (s.respond status result).PT = s.PT := rfl

@[simp] theorem State.respond_PTLEN : (s.respond status result).PTLEN = s.PTLEN := rfl

@[simp] theorem State.respond_MODE : (s.respond status result).MODE = s.MODE := rfl

@[simp] theorem State.respond_ERRCODE : (s.respond status result).ERRCODE = s.ERRCODE := rfl

@[simp] theorem State.respond_ERROP : (s.respond status result).ERROP = s.ERROP := rfl

@[simp] theorem State.respond_cmd : (s.respond status result).cmd = s.cmd := rfl

@[simp] theorem State.respond_cmdPart : (s.respond status result).cmdPart = s.cmdPart := rfl

@[simp] theorem State.respond_rsp : (s.respond status result).rsp = s.rsp ++ [status :: result] := rfl

@[simp] theorem State.respond_trc : (s.respond status result).trc = s.trc := rfl

@[simp] theorem State.respond_rstN : (s.respond status result).rstN = s.rstN := rfl

end

/-! ## A successful response -/

section

variable (s : State) (result : List Byte)

@[simp] theorem State.ok_S : (s.ok result).S = s.S := rfl

@[simp] theorem State.ok_W : (s.ok result).W = s.W := rfl

@[simp] theorem State.ok_ARND : (s.ok result).ARND = s.ARND := rfl

@[simp] theorem State.ok_ASV : (s.ok result).ASV = s.ASV := rfl

@[simp] theorem State.ok_AKV : (s.ok result).AKV = s.AKV := rfl

@[simp] theorem State.ok_AKSV : (s.ok result).AKSV = s.AKSV := rfl

@[simp] theorem State.ok_DB : (s.ok result).DB = s.DB := rfl

@[simp] theorem State.ok_DK : (s.ok result).DK = s.DK := rfl

@[simp] theorem State.ok_L : (s.ok result).L = s.L := rfl

@[simp] theorem State.ok_R : (s.ok result).R = s.R := rfl

@[simp] theorem State.ok_C : (s.ok result).C = s.C := rfl

@[simp] theorem State.ok_D : (s.ok result).D = s.D := rfl

@[simp] theorem State.ok_K : (s.ok result).K = s.K := rfl

@[simp] theorem State.ok_DRND : (s.ok result).DRND = s.DRND := rfl

@[simp] theorem State.ok_DBV : (s.ok result).DBV = s.DBV := rfl

@[simp] theorem State.ok_DKV : (s.ok result).DKV = s.DKV := rfl

@[simp] theorem State.ok_DKSV : (s.ok result).DKSV = s.DKSV := rfl

@[simp] theorem State.ok_PT : (s.ok result).PT = s.PT := rfl

@[simp] theorem State.ok_PTLEN : (s.ok result).PTLEN = s.PTLEN := rfl

@[simp] theorem State.ok_MODE : (s.ok result).MODE = s.MODE := rfl

@[simp] theorem State.ok_ERRCODE : (s.ok result).ERRCODE = s.ERRCODE := rfl

@[simp] theorem State.ok_ERROP : (s.ok result).ERROP = s.ERROP := rfl

@[simp] theorem State.ok_cmd : (s.ok result).cmd = s.cmd := rfl

@[simp] theorem State.ok_cmdPart : (s.ok result).cmdPart = s.cmdPart := rfl

@[simp] theorem State.ok_rsp : (s.ok result).rsp = s.rsp ++ [0x00 :: result] := rfl

@[simp] theorem State.ok_trc : (s.ok result).trc = s.trc := rfl

@[simp] theorem State.ok_rstN : (s.ok result).rstN = s.rstN := rfl

end

/-! ## One trace packet -/

section

variable (s : State) (t : TraceRecord)

@[simp] theorem State.emit_S : (s.emit t).S = s.S := rfl

@[simp] theorem State.emit_W : (s.emit t).W = s.W := rfl

@[simp] theorem State.emit_ARND : (s.emit t).ARND = s.ARND := rfl

@[simp] theorem State.emit_ASV : (s.emit t).ASV = s.ASV := rfl

@[simp] theorem State.emit_AKV : (s.emit t).AKV = s.AKV := rfl

@[simp] theorem State.emit_AKSV : (s.emit t).AKSV = s.AKSV := rfl

@[simp] theorem State.emit_DB : (s.emit t).DB = s.DB := rfl

@[simp] theorem State.emit_DK : (s.emit t).DK = s.DK := rfl

@[simp] theorem State.emit_L : (s.emit t).L = s.L := rfl

@[simp] theorem State.emit_R : (s.emit t).R = s.R := rfl

@[simp] theorem State.emit_C : (s.emit t).C = s.C := rfl

@[simp] theorem State.emit_D : (s.emit t).D = s.D := rfl

@[simp] theorem State.emit_K : (s.emit t).K = s.K := rfl

@[simp] theorem State.emit_DRND : (s.emit t).DRND = s.DRND := rfl

@[simp] theorem State.emit_DBV : (s.emit t).DBV = s.DBV := rfl

@[simp] theorem State.emit_DKV : (s.emit t).DKV = s.DKV := rfl

@[simp] theorem State.emit_DKSV : (s.emit t).DKSV = s.DKSV := rfl

@[simp] theorem State.emit_PT : (s.emit t).PT = s.PT := rfl

@[simp] theorem State.emit_PTLEN : (s.emit t).PTLEN = s.PTLEN := rfl

@[simp] theorem State.emit_MODE : (s.emit t).MODE = s.MODE := rfl

@[simp] theorem State.emit_ERRCODE : (s.emit t).ERRCODE = s.ERRCODE := rfl

@[simp] theorem State.emit_ERROP : (s.emit t).ERROP = s.ERROP := rfl

@[simp] theorem State.emit_cmd : (s.emit t).cmd = s.cmd := rfl

@[simp] theorem State.emit_cmdPart : (s.emit t).cmdPart = s.cmdPart := rfl

@[simp] theorem State.emit_rsp : (s.emit t).rsp = s.rsp := rfl

@[simp] theorem State.emit_trc : (s.emit t).trc = s.trc ++ [t.packet] := rfl

@[simp] theorem State.emit_rstN : (s.emit t).rstN = s.rstN := rfl

end

/-! ## Several trace packets -/

section

variable (s : State) (ts : List TraceRecord)

@[simp] theorem State.emitAll_S : (s.emitAll ts).S = s.S := rfl

@[simp] theorem State.emitAll_W : (s.emitAll ts).W = s.W := rfl

@[simp] theorem State.emitAll_ARND : (s.emitAll ts).ARND = s.ARND := rfl

@[simp] theorem State.emitAll_ASV : (s.emitAll ts).ASV = s.ASV := rfl

@[simp] theorem State.emitAll_AKV : (s.emitAll ts).AKV = s.AKV := rfl

@[simp] theorem State.emitAll_AKSV : (s.emitAll ts).AKSV = s.AKSV := rfl

@[simp] theorem State.emitAll_DB : (s.emitAll ts).DB = s.DB := rfl

@[simp] theorem State.emitAll_DK : (s.emitAll ts).DK = s.DK := rfl

@[simp] theorem State.emitAll_L : (s.emitAll ts).L = s.L := rfl

@[simp] theorem State.emitAll_R : (s.emitAll ts).R = s.R := rfl

@[simp] theorem State.emitAll_C : (s.emitAll ts).C = s.C := rfl

@[simp] theorem State.emitAll_D : (s.emitAll ts).D = s.D := rfl

@[simp] theorem State.emitAll_K : (s.emitAll ts).K = s.K := rfl

@[simp] theorem State.emitAll_DRND : (s.emitAll ts).DRND = s.DRND := rfl

@[simp] theorem State.emitAll_DBV : (s.emitAll ts).DBV = s.DBV := rfl

@[simp] theorem State.emitAll_DKV : (s.emitAll ts).DKV = s.DKV := rfl

@[simp] theorem State.emitAll_DKSV : (s.emitAll ts).DKSV = s.DKSV := rfl

@[simp] theorem State.emitAll_PT : (s.emitAll ts).PT = s.PT := rfl

@[simp] theorem State.emitAll_PTLEN : (s.emitAll ts).PTLEN = s.PTLEN := rfl

@[simp] theorem State.emitAll_MODE : (s.emitAll ts).MODE = s.MODE := rfl

@[simp] theorem State.emitAll_ERRCODE : (s.emitAll ts).ERRCODE = s.ERRCODE := rfl

@[simp] theorem State.emitAll_ERROP : (s.emitAll ts).ERROP = s.ERROP := rfl

@[simp] theorem State.emitAll_cmd : (s.emitAll ts).cmd = s.cmd := rfl

@[simp] theorem State.emitAll_cmdPart : (s.emitAll ts).cmdPart = s.cmdPart := rfl

@[simp] theorem State.emitAll_rsp : (s.emitAll ts).rsp = s.rsp := rfl

@[simp] theorem State.emitAll_trc : (s.emitAll ts).trc = s.trc ++ ts.map TraceRecord.packet := rfl

@[simp] theorem State.emitAll_rstN : (s.emitAll ts).rstN = s.rstN := rfl

end

/-! ## Fault entry -/

section

variable (s : State) (code : FaultCode) (op : Byte)

@[simp] theorem State.takeFault_S : (s.takeFault code op).S = s.S := rfl

@[simp] theorem State.takeFault_W : (s.takeFault code op).W = s.W := rfl

@[simp] theorem State.takeFault_ARND : (s.takeFault code op).ARND = s.ARND := rfl

@[simp] theorem State.takeFault_ASV : (s.takeFault code op).ASV = s.ASV := rfl

@[simp] theorem State.takeFault_AKV : (s.takeFault code op).AKV = s.AKV := rfl

@[simp] theorem State.takeFault_AKSV : (s.takeFault code op).AKSV = s.AKSV := rfl

@[simp] theorem State.takeFault_DB : (s.takeFault code op).DB = s.DB := rfl

@[simp] theorem State.takeFault_DK : (s.takeFault code op).DK = s.DK := rfl

@[simp] theorem State.takeFault_L : (s.takeFault code op).L = s.L := rfl

@[simp] theorem State.takeFault_R : (s.takeFault code op).R = s.R := rfl

@[simp] theorem State.takeFault_C : (s.takeFault code op).C = s.C := rfl

@[simp] theorem State.takeFault_D : (s.takeFault code op).D = s.D := rfl

@[simp] theorem State.takeFault_K : (s.takeFault code op).K = s.K := rfl

@[simp] theorem State.takeFault_DRND : (s.takeFault code op).DRND = s.DRND := rfl

@[simp] theorem State.takeFault_DBV : (s.takeFault code op).DBV = s.DBV := rfl

@[simp] theorem State.takeFault_DKV : (s.takeFault code op).DKV = s.DKV := rfl

@[simp] theorem State.takeFault_DKSV : (s.takeFault code op).DKSV = s.DKSV := rfl

@[simp] theorem State.takeFault_PT : (s.takeFault code op).PT = s.PT := rfl

@[simp] theorem State.takeFault_PTLEN : (s.takeFault code op).PTLEN = s.PTLEN := rfl

@[simp] theorem State.takeFault_MODE : (s.takeFault code op).MODE = .faulted := rfl

@[simp] theorem State.takeFault_ERRCODE : (s.takeFault code op).ERRCODE = FaultCode.toByte code := rfl

@[simp] theorem State.takeFault_ERROP : (s.takeFault code op).ERROP = op := rfl

@[simp] theorem State.takeFault_cmd : (s.takeFault code op).cmd = s.cmd := rfl

@[simp] theorem State.takeFault_cmdPart : (s.takeFault code op).cmdPart = s.cmdPart := rfl

@[simp] theorem State.takeFault_rsp : (s.takeFault code op).rsp = s.rsp ++ [[FaultCode.toByte code]] := rfl

@[simp] theorem State.takeFault_trc : (s.takeFault code op).trc = s.trc := rfl

@[simp] theorem State.takeFault_rstN : (s.takeFault code op).rstN = s.rstN := rfl

end

/-! ## The refusal in FAULTED mode -/

section

variable (s : State)

@[simp] theorem State.refuseFaulted_S : (s.refuseFaulted).S = s.S := rfl

@[simp] theorem State.refuseFaulted_W : (s.refuseFaulted).W = s.W := rfl

@[simp] theorem State.refuseFaulted_ARND : (s.refuseFaulted).ARND = s.ARND := rfl

@[simp] theorem State.refuseFaulted_ASV : (s.refuseFaulted).ASV = s.ASV := rfl

@[simp] theorem State.refuseFaulted_AKV : (s.refuseFaulted).AKV = s.AKV := rfl

@[simp] theorem State.refuseFaulted_AKSV : (s.refuseFaulted).AKSV = s.AKSV := rfl

@[simp] theorem State.refuseFaulted_DB : (s.refuseFaulted).DB = s.DB := rfl

@[simp] theorem State.refuseFaulted_DK : (s.refuseFaulted).DK = s.DK := rfl

@[simp] theorem State.refuseFaulted_L : (s.refuseFaulted).L = s.L := rfl

@[simp] theorem State.refuseFaulted_R : (s.refuseFaulted).R = s.R := rfl

@[simp] theorem State.refuseFaulted_C : (s.refuseFaulted).C = s.C := rfl

@[simp] theorem State.refuseFaulted_D : (s.refuseFaulted).D = s.D := rfl

@[simp] theorem State.refuseFaulted_K : (s.refuseFaulted).K = s.K := rfl

@[simp] theorem State.refuseFaulted_DRND : (s.refuseFaulted).DRND = s.DRND := rfl

@[simp] theorem State.refuseFaulted_DBV : (s.refuseFaulted).DBV = s.DBV := rfl

@[simp] theorem State.refuseFaulted_DKV : (s.refuseFaulted).DKV = s.DKV := rfl

@[simp] theorem State.refuseFaulted_DKSV : (s.refuseFaulted).DKSV = s.DKSV := rfl

@[simp] theorem State.refuseFaulted_PT : (s.refuseFaulted).PT = s.PT := rfl

@[simp] theorem State.refuseFaulted_PTLEN : (s.refuseFaulted).PTLEN = s.PTLEN := rfl

@[simp] theorem State.refuseFaulted_MODE : (s.refuseFaulted).MODE = s.MODE := rfl

@[simp] theorem State.refuseFaulted_ERRCODE : (s.refuseFaulted).ERRCODE = s.ERRCODE := rfl

@[simp] theorem State.refuseFaulted_ERROP : (s.refuseFaulted).ERROP = s.ERROP := rfl

@[simp] theorem State.refuseFaulted_cmd : (s.refuseFaulted).cmd = s.cmd := rfl

@[simp] theorem State.refuseFaulted_cmdPart : (s.refuseFaulted).cmdPart = s.cmdPart := rfl

@[simp] theorem State.refuseFaulted_rsp : (s.refuseFaulted).rsp = s.rsp ++ [[0x07]] := rfl

@[simp] theorem State.refuseFaulted_trc : (s.refuseFaulted).trc = s.trc := rfl

@[simp] theorem State.refuseFaulted_rstN : (s.refuseFaulted).rstN = s.rstN := rfl

end

/-! ## The return to the reset values -/

section

variable (s : State)

@[simp] theorem State.resetRegisters_S : (s.resetRegisters).S = State.reset.S := rfl

@[simp] theorem State.resetRegisters_W : (s.resetRegisters).W = State.reset.W := rfl

@[simp] theorem State.resetRegisters_ARND : (s.resetRegisters).ARND = State.reset.ARND := rfl

@[simp] theorem State.resetRegisters_ASV : (s.resetRegisters).ASV = State.reset.ASV := rfl

@[simp] theorem State.resetRegisters_AKV : (s.resetRegisters).AKV = State.reset.AKV := rfl

@[simp] theorem State.resetRegisters_AKSV : (s.resetRegisters).AKSV = State.reset.AKSV := rfl

@[simp] theorem State.resetRegisters_DB : (s.resetRegisters).DB = State.reset.DB := rfl

@[simp] theorem State.resetRegisters_DK : (s.resetRegisters).DK = State.reset.DK := rfl

@[simp] theorem State.resetRegisters_L : (s.resetRegisters).L = State.reset.L := rfl

@[simp] theorem State.resetRegisters_R : (s.resetRegisters).R = State.reset.R := rfl

@[simp] theorem State.resetRegisters_C : (s.resetRegisters).C = State.reset.C := rfl

@[simp] theorem State.resetRegisters_D : (s.resetRegisters).D = State.reset.D := rfl

@[simp] theorem State.resetRegisters_K : (s.resetRegisters).K = State.reset.K := rfl

@[simp] theorem State.resetRegisters_DRND : (s.resetRegisters).DRND = State.reset.DRND := rfl

@[simp] theorem State.resetRegisters_DBV : (s.resetRegisters).DBV = State.reset.DBV := rfl

@[simp] theorem State.resetRegisters_DKV : (s.resetRegisters).DKV = State.reset.DKV := rfl

@[simp] theorem State.resetRegisters_DKSV : (s.resetRegisters).DKSV = State.reset.DKSV := rfl

@[simp] theorem State.resetRegisters_PT : (s.resetRegisters).PT = State.reset.PT := rfl

@[simp] theorem State.resetRegisters_PTLEN : (s.resetRegisters).PTLEN = State.reset.PTLEN := rfl

@[simp] theorem State.resetRegisters_MODE : (s.resetRegisters).MODE = State.reset.MODE := rfl

@[simp] theorem State.resetRegisters_ERRCODE : (s.resetRegisters).ERRCODE = State.reset.ERRCODE := rfl

@[simp] theorem State.resetRegisters_ERROP : (s.resetRegisters).ERROP = State.reset.ERROP := rfl

@[simp] theorem State.resetRegisters_cmd : (s.resetRegisters).cmd = s.cmd := rfl

@[simp] theorem State.resetRegisters_cmdPart : (s.resetRegisters).cmdPart = s.cmdPart := rfl

@[simp] theorem State.resetRegisters_rsp : (s.resetRegisters).rsp = s.rsp := rfl

@[simp] theorem State.resetRegisters_trc : (s.resetRegisters).trc = s.trc := rfl

@[simp] theorem State.resetRegisters_rstN : (s.resetRegisters).rstN = s.rstN := rfl

end

/-! ## The reset values -/

@[simp] theorem State.reset_S : State.reset.S = ⟨⟨0, 0, 0, 0⟩, ⟨0, 0, 0, 0⟩, ⟨0, 0, 0, 0⟩, ⟨0, 0, 0, 0⟩⟩ := rfl

@[simp] theorem State.reset_W : State.reset.W = Vector.replicate 44 ⟨0, 0, 0, 0⟩ := rfl

@[simp] theorem State.reset_ARND : State.reset.ARND = 0 := rfl

@[simp] theorem State.reset_ASV : State.reset.ASV = false := rfl

@[simp] theorem State.reset_AKV : State.reset.AKV = false := rfl

@[simp] theorem State.reset_AKSV : State.reset.AKSV = false := rfl

@[simp] theorem State.reset_DB : State.reset.DB = 0 := rfl

@[simp] theorem State.reset_DK : State.reset.DK = 0 := rfl

@[simp] theorem State.reset_L : State.reset.L = 0 := rfl

@[simp] theorem State.reset_R : State.reset.R = 0 := rfl

@[simp] theorem State.reset_C : State.reset.C = 0 := rfl

@[simp] theorem State.reset_D : State.reset.D = 0 := rfl

@[simp] theorem State.reset_K : State.reset.K = Vector.replicate 16 0 := rfl

@[simp] theorem State.reset_DRND : State.reset.DRND = 0 := rfl

@[simp] theorem State.reset_DBV : State.reset.DBV = false := rfl

@[simp] theorem State.reset_DKV : State.reset.DKV = false := rfl

@[simp] theorem State.reset_DKSV : State.reset.DKSV = false := rfl

@[simp] theorem State.reset_PT : State.reset.PT = Vector.replicate 64 0 := rfl

@[simp] theorem State.reset_PTLEN : State.reset.PTLEN = 0 := rfl

@[simp] theorem State.reset_MODE : State.reset.MODE = .run := rfl

@[simp] theorem State.reset_ERRCODE : State.reset.ERRCODE = 0 := rfl

@[simp] theorem State.reset_ERROP : State.reset.ERROP = 0 := rfl

@[simp] theorem State.reset_cmd : State.reset.cmd = [] := rfl

@[simp] theorem State.reset_cmdPart : State.reset.cmdPart = [] := rfl

@[simp] theorem State.reset_rsp : State.reset.rsp = [] := rfl

@[simp] theorem State.reset_trc : State.reset.trc = [] := rfl

@[simp] theorem State.reset_rstN : State.reset.rstN = true := rfl

end Sys2Proof.Machine
end

