-- ==== Sys2Proof/Laws/Ops.lean ====
section
/-!
SUPPORT. What the shared operations can do, said once: the `require` lines, executing a command, failing, and taking the
next packet. Proofs cite these instead of unfolding the operations.
-/

namespace Sys2Proof.Machine

/-! ## The `require` lines -/

@[simp] theorem firstFailure_nil : firstFailure [] = none := rfl

/-- The first line decides when it fails, and is passed when it holds. -/
@[simp] theorem firstFailure_require (c : Prop) [Decidable c] (code : FaultCode) (rest : List (Bool × FaultCode)) :
    firstFailure (require c code :: rest) = if c then firstFailure rest else some code := by
  by_cases h : c <;> simp [require, firstFailure, h]

/-! ## Executing a command -/

/-- In RUN mode with every `require` line holding, a command has its effect. -/
theorem command_done {i : Instr} {s done : State} {checks : List (Bool × FaultCode)} (hm : s.MODE = .run)
    (hc : firstFailure checks = none) : command i s checks done = .next done := by
  simp [command, hm, hc]

/-- In RUN mode the first failing `require` line makes the command take its fault. -/
theorem command_fails {i : Instr} {s done : State} {checks : List (Bool × FaultCode)} {code : FaultCode}
    (hm : s.MODE = .run) (hc : firstFailure checks = some code) :
    command i s checks done = .next (s.takeFault code i.opcode) := by
  simp [command, hm, hc]

/-- In FAULTED mode a command is refused. -/
theorem command_refused {i : Instr} {s done : State} {checks : List (Bool × FaultCode)} (hm : s.MODE = .faulted) :
    command i s checks done = .next s.refuseFaulted := by
  simp [command, hm]

/-- Everything a command can answer. -/
theorem command_cases {i : Instr} {s done t : State} {checks : List (Bool × FaultCode)}
    (h : command i s checks done = .next t) :
    (s.MODE = .faulted ∧ t = s.refuseFaulted) ∨
      (s.MODE = .run ∧ ∃ code, firstFailure checks = some code ∧ t = s.takeFault code i.opcode) ∨
      (s.MODE = .run ∧ firstFailure checks = none ∧ t = done) := by
  cases hm : s.MODE with
  | faulted =>
    rw [command_refused hm] at h
    cases h
    exact .inl ⟨rfl, rfl⟩
  | run =>
    cases hc : firstFailure checks with
    | none =>
      rw [command_done hm hc] at h
      cases h
      exact .inr (.inr ⟨rfl, rfl, rfl⟩)
    | some code =>
      rw [command_fails hm hc] at h
      cases h
      exact .inr (.inl ⟨rfl, code, rfl, rfl⟩)

/-- A command always answers a next state. -/
theorem command_next (i : Instr) (s done : State) (checks : List (Bool × FaultCode)) :
    ∃ t, command i s checks done = .next t := by
  cases hm : s.MODE with
  | faulted => exact ⟨_, command_refused hm⟩
  | run =>
    cases hc : firstFailure checks with
    | none => exact ⟨_, command_done hm hc⟩
    | some code => exact ⟨_, command_fails hm hc⟩

/-! ## Failing, and taking the next packet -/

theorem State.fail_run {s : State} (hm : s.MODE = .run) (code : FaultCode) (op : Byte) :
    s.fail code op = s.takeFault code op := by
  simp [State.fail, hm]

theorem State.fail_faulted {s : State} (hm : s.MODE = .faulted) (code : FaultCode) (op : Byte) :
    s.fail code op = s.refuseFaulted := by
  simp [State.fail, hm]

theorem State.fetch_cons {s : State} {pkt : Packet} {rest : List Packet} (h : s.cmd = pkt :: rest) :
    s.fetch = some (pkt, { s with cmd := rest }) := by
  simp [State.fetch, h]

theorem State.fetch_nil {s : State} (h : s.cmd = []) : s.fetch = none := by
  simp [State.fetch, h]

/-- What taking a packet leaves: the packet was the oldest on CMD, and nothing else changes. -/
theorem State.fetch_some {s t : State} {pkt : Packet} (h : s.fetch = some (pkt, t)) :
    ∃ rest, s.cmd = pkt :: rest ∧ t = { s with cmd := rest } := by
  unfold State.fetch at h
  split at h
  · cases h
  · rename_i p rest hc
    cases h
    exact ⟨rest, hc, rfl⟩

/-- The code recorded by a fault is never 0 and at most 7 (60_exceptions.md R281). -/
theorem FaultCode.toByte_pos (code : FaultCode) :
    FaultCode.toByte code ≠ 0 ∧ (FaultCode.toByte code).toNat ≤ 7 := by
  cases code <;> decide

/-- Taking several records is taking them one by one. -/
theorem State.emitAll_cons (s : State) (t : TraceRecord) (ts : List TraceRecord) :
    s.emitAll (t :: ts) = (s.emit t).emitAll ts := by
  simp [State.emitAll, State.emit]

theorem State.emitAll_append (s : State) (ts us : List TraceRecord) :
    s.emitAll (ts ++ us) = (s.emitAll ts).emitAll us := by
  simp [State.emitAll]

end Sys2Proof.Machine
end

