-- ==== Sys2Proof/Laws/Aes.lean ====
section
/-!
SUPPORT. What the operations of the AES engine can do, said once each.
-/

namespace Sys2Proof.Machine

/-! ## The traced forms -/

/-- `do_sub()` replaces the state register and emits one record. -/
theorem State.doSub_eq (s : State) :
    s.doSub = { s with
      S := subBytes s.S
      trc := s.trc ++ [(TraceRecord.sub s.ARND.toNat s.S (subBytes s.S)).packet] } := rfl

theorem State.doShift_eq (s : State) :
    s.doShift = { s with
      S := shiftRows s.S
      trc := s.trc ++ [(TraceRecord.shift s.ARND.toNat s.S (shiftRows s.S)).packet] } := rfl

theorem State.doMix_eq (s : State) :
    s.doMix = { s with
      S := mixColumns s.S
      trc := s.trc ++ [(TraceRecord.mix s.ARND.toNat s.S (mixColumns s.S)).packet] } := rfl

theorem State.doArk_eq (s : State) (k : Nat) :
    s.doArk k = { s with
      S := s.S.xor (s.roundKey k)
      trc := s.trc ++
        [(TraceRecord.ark s.ARND.toNat k s.S (s.roundKey k) (s.S.xor (s.roundKey k))).packet] } := rfl

/-! ## Rounds -/

/-- The transformations of a round change the state register and add records, nothing else. -/
theorem State.roundSteps_shape (s : State) (r : Nat) :
    ∃ (x : AesState) (ts : List TraceRecord),
      s.roundSteps r = { s with S := x, trc := s.trc ++ ts.map TraceRecord.packet } := by
  unfold State.roundSteps
  split
  · exact ⟨_, [.ark s.ARND.toNat 0 s.S (s.roundKey 0) (s.S.xor (s.roundKey 0))], rfl⟩
  · split
    · exact ⟨_, [.sub s.ARND.toNat s.S _, .shift s.ARND.toNat _ _, .mix s.ARND.toNat _ _, .ark s.ARND.toNat r _ (s.roundKey r) _],
        by simp only [State.doSub_eq, State.doShift_eq, State.doMix_eq, State.doArk_eq, List.map, List.append_assoc,
             List.cons_append, List.nil_append]
           rfl⟩
    · exact ⟨_, [.sub s.ARND.toNat s.S _, .shift s.ARND.toNat _ _, .ark s.ARND.toNat Config.aesRounds _ (s.roundKey Config.aesRounds) _],
        by simp only [State.doSub_eq, State.doShift_eq, State.doArk_eq, List.map, List.append_assoc,
             List.cons_append, List.nil_append]
           rfl⟩

/-- `do_round()` changes the state register, advances the sequencer and adds records, nothing else. -/
theorem State.doRound_shape (s : State) :
    ∃ (x : AesState) (ts : List TraceRecord),
      s.doRound = { s with S := x, ARND := s.ARND + 1, trc := s.trc ++ ts.map TraceRecord.packet } := by
  obtain ⟨x, ts, h⟩ := s.roundSteps_shape s.ARND.toNat
  simp only [State.doRound, h]
  by_cases hr : s.ARND.toNat = Config.aesRounds
  · exact ⟨x, ts ++ [.around s.ARND.toNat s.S x, .afinal x], by simp [hr, State.emit]⟩
  · exact ⟨x, ts ++ [.around s.ARND.toNat s.S x], by simp [hr, State.emit]⟩

/-- Several rounds change the state register and the sequencer and add records, nothing else. -/
theorem State.runRounds_shape (n : Nat) (s : State) :
    ∃ (x : AesState) (r : BitVec 4) (ts : List TraceRecord),
      State.runRounds n s = { s with S := x, ARND := r, trc := s.trc ++ ts.map TraceRecord.packet } := by
  induction n generalizing s with
  | zero => exact ⟨s.S, s.ARND, [], by simp [State.runRounds]⟩
  | succ n ih =>
    unfold State.runRounds
    split
    · obtain ⟨x, ts, h⟩ := s.doRound_shape
      obtain ⟨y, r, us, h'⟩ := ih s.doRound
      rw [h', h]
      exact ⟨y, r, ts ++ us, by simp⟩
    · exact ⟨s.S, s.ARND, [], by simp⟩

/-- From a round number of at most 10, enough rounds leave the sequencer at 11. -/
theorem State.runRounds_ARND (n : Nat) (s : State) (h : s.ARND.toNat ≤ 11) (hn : 11 ≤ s.ARND.toNat + n) :
    (State.runRounds n s).ARND = 11 := by
  induction n generalizing s with
  | zero => exact BitVec.eq_of_toNat_eq (by simp [State.runRounds]; omega)
  | succ n ih =>
    unfold State.runRounds
    split
    · rename_i hle
      have hle : s.ARND.toNat ≤ 10 := hle
      obtain ⟨x, ts, hd⟩ := s.doRound_shape
      have hr : s.doRound.ARND.toNat = s.ARND.toNat + 1 := by
        rw [hd]
        simp only [BitVec.toNat_add]
        have : (1 : BitVec 4).toNat = 1 := rfl
        omega
      exact ih s.doRound (by omega) (by omega)
    · rename_i hgt
      have hgt : ¬ s.ARND.toNat ≤ 10 := hgt
      exact BitVec.eq_of_toNat_eq (by simp; omega)

/-! ## The key schedule -/

/-- One word of the key schedule changes the word file and adds one record, nothing else. -/
theorem State.expandWord_eq (s : State) (i : Nat) :
    s.expandWord i = { s with
      W := s.W.setIfInBounds i ((s.word (i - 4)).xor (s.scheduleTemp i))
      trc := s.trc ++ [(TraceRecord.ksword i (s.word (i - 1)) (s.word (i - 4)) (s.scheduleTemp i)
        ((s.word (i - 4)).xor (s.scheduleTemp i))).packet] } := rfl

/-- The key expansion changes the word file and adds records, nothing else. -/
theorem State.expandWords_shape (is : List Nat) (s : State) :
    ∃ (words : Vector AesWord 44) (ts : List TraceRecord),
      is.foldl State.expandWord s = { s with W := words, trc := s.trc ++ ts.map TraceRecord.packet } := by
  induction is generalizing s with
  | nil => exact ⟨s.W, [], by simp⟩
  | cons i is ih =>
    obtain ⟨words, ts, h⟩ := ih (s.expandWord i)
    exact ⟨words, .ksword i (s.word (i - 1)) (s.word (i - 4)) (s.scheduleTemp i)
      ((s.word (i - 4)).xor (s.scheduleTemp i)) :: ts, by rw [List.foldl_cons, h, State.expandWord_eq]; simp⟩

theorem State.expandKey_shape (s : State) :
    ∃ (words : Vector AesWord 44) (ts : List TraceRecord),
      s.expandKey = { s with W := words, trc := s.trc ++ ts.map TraceRecord.packet } :=
  State.expandWords_shape _ s

/-- `W[i]` read as an element of the word file. -/
theorem State.word_eq_getElem (s : State) (i : Nat) (h : i < 44) : s.word i = s.W[i] := by
  simp [State.word, h]

/-- Reading a word after one word was written. -/
theorem State.word_setW (s : State) (i j : Nat) (w : AesWord) (hi : i < 44) :
    State.word { s with W := s.W.setIfInBounds i w } j = if j = i then w else s.word j := by
  by_cases h : j = i
  · subst h
    simp [State.word, hi]
  · simp [State.word, h, List.getElem?_set_ne (Ne.symm h)]

end Sys2Proof.Machine
end

