-- ==== Sys2Proof/Laws/Des.lean ====
section
/-!
SUPPORT. What the operations of the DES engine can do, said once each.
-/

namespace Sys2Proof.Machine

/-! ## The steps of the cipher -/

/-- The initial permutation writes the halves and the sequencer and emits one record, nothing else. -/
theorem State.initialPermutation_eq (s : State) :
    s.initialPermutation = { s with
      L := substring (permute 64 tableIP s.DB) 1 32
      R := substring (permute 64 tableIP s.DB) 33 32
      DRND := 1
      trc := s.trc ++ [(TraceRecord.ip s.DB (permute 64 tableIP s.DB)).packet] } := rfl

/-- A Feistel round writes the halves and the sequencer and emits its records, nothing else. -/
theorem State.doDround_eq (s : State) :
    s.doDround = { s with
      L := s.R
      R := s.L ^^^ feistel s.R (s.roundKey48 s.DRND.toNat)
      DRND := s.DRND + 1
      trc := s.trc ++ (feistelRecords s.DRND.toNat s.R (s.roundKey48 s.DRND.toNat) ++
        [TraceRecord.lxor s.DRND.toNat s.L (feistel s.R (s.roundKey48 s.DRND.toNat))
          (s.L ^^^ feistel s.R (s.roundKey48 s.DRND.toNat)),
         TraceRecord.dround s.DRND.toNat s.L s.R s.R (s.L ^^^ feistel s.R (s.roundKey48 s.DRND.toNat))]).map
          TraceRecord.packet } := rfl

/-- The final step writes the block and the sequencer and emits three records, nothing else. -/
theorem State.doDfinal_eq (s : State) :
    s.doDfinal = { s with
      DB := permute 64 tableFP (s.R ++ s.L)
      DRND := 18
      trc := s.trc ++ [(TraceRecord.swap s.L s.R (s.R ++ s.L)).packet,
        (TraceRecord.fp (s.R ++ s.L) (permute 64 tableFP (s.R ++ s.L))).packet,
        (TraceRecord.dfinal (permute 64 tableFP (s.R ++ s.L))).packet] } := rfl

/-- Several Feistel rounds write the halves and the sequencer and add records, nothing else. -/
theorem State.runDrounds_shape (n : Nat) (s : State) :
    ∃ (l r : BitVec 32) (d : BitVec 5) (ts : List TraceRecord),
      State.runDrounds n s = { s with L := l, R := r, DRND := d, trc := s.trc ++ ts.map TraceRecord.packet } := by
  induction n generalizing s with
  | zero => exact ⟨s.L, s.R, s.DRND, [], by simp [State.runDrounds]⟩
  | succ n ih =>
    unfold State.runDrounds
    split
    · obtain ⟨l, r, d, ts, h⟩ := ih s.doDround
      rw [h, State.doDround_eq]
      exact ⟨l, r, d, (feistelRecords s.DRND.toNat s.R (s.roundKey48 s.DRND.toNat) ++
        [.lxor s.DRND.toNat s.L (feistel s.R (s.roundKey48 s.DRND.toNat))
          (s.L ^^^ feistel s.R (s.roundKey48 s.DRND.toNat)),
         .dround s.DRND.toNat s.L s.R s.R (s.L ^^^ feistel s.R (s.roundKey48 s.DRND.toNat))]) ++ ts, by simp⟩
    · exact ⟨s.L, s.R, s.DRND, [], by simp⟩

/-- From round 1 to 17, enough rounds leave the sequencer at 17. -/
theorem State.runDrounds_DRND (n : Nat) (s : State) (h : s.DRND.toNat ≤ 17) (hn : 17 ≤ s.DRND.toNat + n) :
    (State.runDrounds n s).DRND = 17 := by
  induction n generalizing s with
  | zero => exact BitVec.eq_of_toNat_eq (by simp [State.runDrounds]; omega)
  | succ n ih =>
    unfold State.runDrounds
    split
    · rename_i hle
      have hle : s.DRND.toNat ≤ 16 := hle
      have hr : s.doDround.DRND.toNat = s.DRND.toNat + 1 := by
        rw [State.doDround_eq]
        simp only [BitVec.toNat_add]
        have : (1 : BitVec 5).toNat = 1 := rfl
        omega
      exact ih s.doDround (by omega) (by omega)
    · rename_i hgt
      have hgt : ¬ s.DRND.toNat ≤ 16 := hgt
      exact BitVec.eq_of_toNat_eq (by simp; omega)

/-! ## The key schedule -/

/-- The start of the key schedule writes C and D and emits one record, nothing else. -/
theorem State.scheduleStart_eq (s : State) :
    s.scheduleStart = { s with
      C := substring (permute 56 tablePC1 s.DK) 1 28
      D := substring (permute 56 tablePC1 s.DK) 29 28
      trc := s.trc ++ [(TraceRecord.pc1 s.DK (permute 56 tablePC1 s.DK) (substring (permute 56 tablePC1 s.DK) 1 28)
        (substring (permute 56 tablePC1 s.DK) 29 28)).packet] } := rfl

/-- A round of the key schedule writes C, D and one round key and emits two records, nothing else. -/
theorem State.scheduleRound_eq (s : State) (i : Nat) :
    s.scheduleRound i = { s with
      C := rol s.C (shifts i)
      D := rol s.D (shifts i)
      K := s.K.setIfInBounds (i - 1) (permute 48 tablePC2 (rol s.C (shifts i) ++ rol s.D (shifts i)))
      trc := s.trc ++
        [(TraceRecord.ksshift i (shifts i) s.C s.D (rol s.C (shifts i)) (rol s.D (shifts i))).packet,
         (TraceRecord.pc2 i (rol s.C (shifts i) ++ rol s.D (shifts i))
           (permute 48 tablePC2 (rol s.C (shifts i) ++ rol s.D (shifts i)))).packet] } := rfl

/-- Rounds of the key schedule write C, D and the round keys and add records, nothing else. -/
theorem State.scheduleRounds_shape (is : List Nat) (s : State) :
    ∃ (c d : BitVec 28) (keys : Vector (BitVec 48) 16) (ts : List TraceRecord),
      is.foldl State.scheduleRound s =
        { s with C := c, D := d, K := keys, trc := s.trc ++ ts.map TraceRecord.packet } := by
  induction is generalizing s with
  | nil => exact ⟨s.C, s.D, s.K, [], by simp⟩
  | cons i is ih =>
    obtain ⟨c, d, keys, ts, h⟩ := ih (s.scheduleRound i)
    rw [List.foldl_cons, h, State.scheduleRound_eq]
    exact ⟨c, d, keys, .ksshift i (shifts i) s.C s.D (rol s.C (shifts i)) (rol s.D (shifts i)) ::
      .pc2 i (rol s.C (shifts i) ++ rol s.D (shifts i))
        (permute 48 tablePC2 (rol s.C (shifts i) ++ rol s.D (shifts i))) :: ts, by simp⟩

theorem State.scheduleKeys_shape (s : State) :
    ∃ (c d : BitVec 28) (keys : Vector (BitVec 48) 16) (ts : List TraceRecord),
      s.scheduleKeys = { s with C := c, D := d, K := keys, trc := s.trc ++ ts.map TraceRecord.packet } := by
  obtain ⟨c, d, keys, ts, h⟩ := State.scheduleRounds_shape (List.range' 1 16) s.scheduleStart
  unfold State.scheduleKeys
  rw [h, State.scheduleStart_eq]
  exact ⟨c, d, keys, .pc1 s.DK (permute 56 tablePC1 s.DK) (substring (permute 56 tablePC1 s.DK) 1 28)
    (substring (permute 56 tablePC1 s.DK) 29 28) :: ts, by simp⟩

/-- Two rotations accumulate. -/
theorem rol_rol {n : Nat} (X : BitVec n) (a b : Nat) : rol (rol X a) b = rol X (a + b) := by
  apply BitVec.eq_of_getMsbD_eq
  intro i hi
  have hm : (b + i) % n < n := Nat.mod_lt _ (by omega)
  rw [rol_getMsbD _ _ _ hi, rol_getMsbD _ _ _ hm, rol_getMsbD _ _ _ hi]
  congr 1
  rw [Nat.add_mod_mod]
  congr 1
  omega

end Sys2Proof.Machine
end

