-- ==== Sys2Proof/Laws/Exec.lean ====
section
/-!
SUPPORT. The shape of every meaning: all commands but SYS.RESET and SYS.RDSTAT go through `command`.
-/

namespace Sys2Proof.Machine

/-- Every command but the two that execute in both modes is `command` with its `require` lines and its effect. -/
theorem exec_command (i : Instr) (s : State) (h1 : i ≠ .sysReset) (h2 : i ≠ .sysRdstat) :
    ∃ checks done, exec i s = command i s checks done := by
  cases i <;> first | exact absurd rfl h1 | exact absurd rfl h2 | exact ⟨_, _, rfl⟩

end Sys2Proof.Machine
end

