-- ==== Sys2Proof/Laws/PerInstr.lean ====
section
/-!
SUPPORT. Statements about every instruction as syntax, one lemma per constructor.
-/

namespace Sys2Proof.Laws.DecodeEncode

/-- Decoding the packet of a well-formed command gives the command back. -/
def Statement (i : Instr) : Prop := i.wf = true → decode (encode i) = .ok i

theorem sysNop : Statement .sysNop := fun _ => rfl

theorem sysReset : Statement .sysReset := fun _ => rfl

theorem sysRdstat : Statement .sysRdstat := fun _ => rfl

theorem gfAdd (a b : Byte) : Statement (.gfAdd a b) := fun _ => rfl

theorem gfMul2 (b : Byte) : Statement (.gfMul2 b) := fun _ => rfl

theorem gfMul3 (b : Byte) : Statement (.gfMul3 b) := fun _ => rfl

theorem gfMul (a b : Byte) : Statement (.gfMul a b) := fun _ => rfl

theorem gfMixcol (c0 c1 c2 c3 : Byte) : Statement (.gfMixcol c0 c1 c2 c3) := fun _ => rfl

theorem bvLdt (entries : List Byte) : Statement (.bvLdt entries) := by
  intro h
  have h' : 1 ≤ entries.length ∧ entries.length ≤ Config.bvMaxBits := by simpa [Instr.wf] using h
  simp [encode, Instr.opcode, Instr.operandBytes, decode, decodeOperands, formatFT, h']

theorem bvPerm (sel nbits : Byte) (data : List Byte) : Statement (.bvPerm sel nbits data) := by
  intro h
  have h' : data.length = ceil8 nbits.toNat := by simpa [Instr.wf] using h
  simp [encode, Instr.opcode, Instr.operandBytes, decode, decodeOperands, formatFP, h']

theorem bvXor (na nb : Byte) (A B : List Byte) : Statement (.bvXor na nb A B) := by
  intro h
  have h' : A.length = ceil8 na.toNat ∧ B.length = ceil8 nb.toNat := by simpa [Instr.wf] using h
  simp [encode, Instr.opcode, Instr.operandBytes, decode, decodeOperands, formatFX, h'.1, h'.2,
    List.take_left' h'.1, List.drop_left' h'.1]

theorem bvRol (nbits cnt : Byte) (data : List Byte) : Statement (.bvRol nbits cnt data) := by
  intro h
  have h' : data.length = ceil8 nbits.toNat := by simpa [Instr.wf] using h
  simp [encode, Instr.opcode, Instr.operandBytes, decode, decodeOperands, formatFR, h']

theorem aesLdblk (data : List Byte) : Statement (.aesLdblk data) := fun _ => rfl

theorem aesLdkey (data : List Byte) : Statement (.aesLdkey data) := fun _ => rfl

theorem aesKeyexp : Statement .aesKeyexp := fun _ => rfl

theorem aesSubbytes : Statement .aesSubbytes := fun _ => rfl

theorem aesShiftrows : Statement .aesShiftrows := fun _ => rfl

theorem aesMixcols : Statement .aesMixcols := fun _ => rfl

theorem aesAddrk (k : Byte) : Statement (.aesAddrk k) := fun _ => rfl

theorem aesRound : Statement .aesRound := fun _ => rfl

theorem aesEnc : Statement .aesEnc := fun _ => rfl

theorem aesRdblk : Statement .aesRdblk := fun _ => rfl

theorem aesRdrk (k : Byte) : Statement (.aesRdrk k) := fun _ => rfl

theorem aesSbox (b : Byte) : Statement (.aesSbox b) := fun _ => rfl

theorem desLdblk (data : List Byte) : Statement (.desLdblk data) := fun _ => rfl

theorem desLdkey (data : List Byte) : Statement (.desLdkey data) := fun _ => rfl

theorem desKeysched : Statement .desKeysched := fun _ => rfl

theorem desIp : Statement .desIp := fun _ => rfl

theorem desRound : Statement .desRound := fun _ => rfl

theorem desFp : Statement .desFp := fun _ => rfl

theorem desEnc : Statement .desEnc := fun _ => rfl

theorem desRdblk : Statement .desRdblk := fun _ => rfl

theorem desRdlr : Statement .desRdlr := fun _ => rfl

theorem desRdrk (i : Byte) : Statement (.desRdrk i) := fun _ => rfl

theorem desF (i : Byte) : Statement (.desF i) := fun _ => rfl

theorem desSbox (j v : Byte) : Statement (.desSbox j v) := fun _ => rfl

end Sys2Proof.Laws.DecodeEncode
end

