-- ==== Sys2Proof/Tests/Slice0.lean ====
section
/-!
SUPPORT. Small tests. Expected values are those of spec/95_test_vectors.md, whose section stands beside each group, or are
written out from the rule named. The last part shows for each statement of Certificates/Slice0/Obligations.lean that has
hypotheses a state and operands that meet them, at the boundary values where clauses meet.
-/

namespace Sys2Proof.Tests

set_option Elab.async false

open Sys2Proof.Machine

/-! ## Helpers -/

/-- The next state of an answer. -/
def nextOf : Answer → Option State
  | .next t => some t
  | .fault _ => none
  | .refused _ => none

/-- The last response of an answer. -/
def lastRsp (a : Answer) : Option Packet := (nextOf a).bind fun t => t.rsp.getLast?

/-- The trace packets of an answer. -/
def traceOf (a : Answer) : List Packet := ((nextOf a).map State.trc).getD []

/-- The status bytes after an answer. -/
def statusOf (a : Answer) : List Byte := ((nextOf a).map State.statusBytes).getD []

/-- The state after commands executed in order; a command that does not answer a next state is passed over. -/
def after (is : List Instr) (s : State) : State := is.foldl (fun t i => (nextOf (exec i t)).getD t) s

/-- The reset state with one packet waiting. -/
def sent (pkt : Packet) : State := { State.reset with cmd := [pkt] }

/-- The reset state in FAULTED mode after the illegal opcode 99. -/
def faulted : State := { State.reset with MODE := .faulted, ERRCODE := 1, ERROP := 0x99 }

/-- The key of 95_test_vectors.md section 4.1. -/
def aesKey : List Byte := [0x2b, 0x7e, 0x15, 0x16, 0x28, 0xae, 0xd2, 0xa6, 0xab, 0xf7, 0x15, 0x88, 0x09, 0xcf, 0x4f, 0x3c]

/-- The block of section 4.1. -/
def aesBlock : List Byte := [0x32, 0x43, 0xf6, 0xa8, 0x88, 0x5a, 0x30, 0x8d, 0x31, 0x31, 0x98, 0xa2, 0xe0, 0x37, 0x07, 0x34]

/-- The round keys of section 4.1, one after another. -/
def aesSchedule : List Byte :=
  [0x2b, 0x7e, 0x15, 0x16, 0x28, 0xae, 0xd2, 0xa6, 0xab, 0xf7, 0x15, 0x88, 0x09, 0xcf, 0x4f, 0x3c] ++
  [0xa0, 0xfa, 0xfe, 0x17, 0x88, 0x54, 0x2c, 0xb1, 0x23, 0xa3, 0x39, 0x39, 0x2a, 0x6c, 0x76, 0x05] ++
  [0xf2, 0xc2, 0x95, 0xf2, 0x7a, 0x96, 0xb9, 0x43, 0x59, 0x35, 0x80, 0x7a, 0x73, 0x59, 0xf6, 0x7f] ++
  [0x3d, 0x80, 0x47, 0x7d, 0x47, 0x16, 0xfe, 0x3e, 0x1e, 0x23, 0x7e, 0x44, 0x6d, 0x7a, 0x88, 0x3b] ++
  [0xef, 0x44, 0xa5, 0x41, 0xa8, 0x52, 0x5b, 0x7f, 0xb6, 0x71, 0x25, 0x3b, 0xdb, 0x0b, 0xad, 0x00] ++
  [0xd4, 0xd1, 0xc6, 0xf8, 0x7c, 0x83, 0x9d, 0x87, 0xca, 0xf2, 0xb8, 0xbc, 0x11, 0xf9, 0x15, 0xbc] ++
  [0x6d, 0x88, 0xa3, 0x7a, 0x11, 0x0b, 0x3e, 0xfd, 0xdb, 0xf9, 0x86, 0x41, 0xca, 0x00, 0x93, 0xfd] ++
  [0x4e, 0x54, 0xf7, 0x0e, 0x5f, 0x5f, 0xc9, 0xf3, 0x84, 0xa6, 0x4f, 0xb2, 0x4e, 0xa6, 0xdc, 0x4f] ++
  [0xea, 0xd2, 0x73, 0x21, 0xb5, 0x8d, 0xba, 0xd2, 0x31, 0x2b, 0xf5, 0x60, 0x7f, 0x8d, 0x29, 0x2f] ++
  [0xac, 0x77, 0x66, 0xf3, 0x19, 0xfa, 0xdc, 0x21, 0x28, 0xd1, 0x29, 0x41, 0x57, 0x5c, 0x00, 0x6e] ++
  [0xd0, 0x14, 0xf9, 0xa8, 0xc9, 0xee, 0x25, 0x89, 0xe1, 0x3f, 0x0c, 0xc8, 0xb6, 0x63, 0x0c, 0xa6]

/-- The block and the key schedule of section 4.1 loaded, with a round number. -/
def aesAt (block : List Byte) (r : BitVec 4) : State :=
  { State.reset with
    S := stateOf block, W := Vector.ofFn fun i => keyWord aesSchedule i.val, ARND := r, ASV := true, AKV := true,
    AKSV := true }

/-- The key of section 4.2. -/
def desKey : List Byte := [0x13, 0x34, 0x57, 0x79, 0x9b, 0xbc, 0xdf, 0xf1]

/-- The block of section 4.2. -/
def desBlock : List Byte := [0x01, 0x23, 0x45, 0x67, 0x89, 0xab, 0xcd, 0xef]

/-- The round keys of section 5. -/
def desSchedule : List (BitVec 48) := [
  0x1b02effc7072, 0x79aed9dbc9e5, 0x55fc8a42cf99, 0x72add6db351d, 0x7cec07eb53a8, 0x63a53e507b2f, 0xec84b7f618bc,
  0xf78a3ac13bfb, 0xe0dbebede781, 0xb1f347ba464f, 0x215fd3ded386, 0x7571f59467e9, 0x97c5d1faba41, 0x5f43b7f2e73a,
  0xbf918d3d3f0a, 0xcb3d8b0e17f5]

/-- The block and the round keys of section 4.2 loaded, with halves and a sequencer value. -/
def desAt (l r : BitVec 32) (d : BitVec 5) : State :=
  { State.reset with
    DB := 0x0123456789abcdef, DK := 0x133457799bbcdff1, L := l, R := r, K := Vector.ofFn fun i => desSchedule.getD i.val 0,
    DRND := d, DBV := true, DKV := true, DKSV := true }

/-! ## WellFormed refuses the terms that no packet stands for (30_encoding.md R111) -/

theorem test_wf_refuses_empty_table : (Instr.bvLdt []).wf = false := by decide +kernel

theorem test_wf_refuses_table_of_65 : (Instr.bvLdt (List.replicate 65 0x01)).wf = false := by decide +kernel

theorem test_wf_refuses_perm_without_its_data : (Instr.bvPerm 0x07 0x08 []).wf = false := by decide +kernel

theorem test_wf_refuses_xor_with_short_first : (Instr.bvXor 0x09 0x08 [0xff] [0xff]).wf = false := by decide +kernel

theorem test_wf_refuses_xor_with_long_second :
    (Instr.bvXor 0x08 0x08 [0xff] [0xff, 0xff]).wf = false := by decide +kernel

theorem test_wf_refuses_rol_with_short_data : (Instr.bvRol 0x1c 0x01 [0xf0, 0xcc, 0xaa]).wf = false := by decide +kernel

theorem test_wf_admits_operands_out_of_range :
    (Instr.bvPerm 0xff 0x00 []).wf = true ∧ (Instr.aesAddrk 0xff).wf = true := by decide +kernel

/-! ## Decoding, packets written out from 30_encoding.md R111 and R113 -/

theorem test_decode_sys :
    decode [0x00] = .ok .sysNop ∧
    decode [0x01] = .ok .sysReset ∧
    decode [0x02] = .ok .sysRdstat :=
  ⟨rfl, rfl, rfl⟩

theorem test_decode_gf :
    decode [0x10, 0x57, 0x83] = .ok (.gfAdd 0x57 0x83) ∧
    decode [0x11, 0x80] = .ok (.gfMul2 0x80) ∧
    decode [0x12, 0x57] = .ok (.gfMul3 0x57) ∧
    decode [0x13, 0x57, 0x13] = .ok (.gfMul 0x57 0x13) ∧
    decode [0x14, 0xdb, 0x13, 0x53, 0x45] = .ok (.gfMixcol 0xdb 0x13 0x53 0x45) :=
  ⟨rfl, rfl, rfl, rfl, rfl⟩

theorem test_decode_bv :
    decode [0x20, 0x03, 0x01, 0x02] = .ok (.bvLdt [0x03, 0x01, 0x02]) ∧
    decode [0x21, 0x00, 0x03, 0xa0] = .ok (.bvPerm 0x00 0x03 [0xa0]) ∧
    decode [0x22, 0x08, 0x09, 0xff, 0xfe, 0x80] = .ok (.bvXor 0x08 0x09 [0xff] [0xfe, 0x80]) ∧
    decode [0x23, 0x1c, 0x02, 0xf0, 0xcc, 0xaa, 0xff] = .ok (.bvRol 0x1c 0x02 [0xf0, 0xcc, 0xaa, 0xff]) :=
  ⟨rfl, rfl, rfl, rfl⟩

theorem test_decode_aes :
    decode [0x30, 0x01, 0x02] = .ok (.aesLdblk [0x01, 0x02]) ∧
    decode [0x31] = .ok (.aesLdkey []) ∧
    decode [0x32] = .ok .aesKeyexp ∧
    decode [0x33] = .ok .aesSubbytes ∧
    decode [0x34] = .ok .aesShiftrows ∧
    decode [0x35] = .ok .aesMixcols ∧
    decode [0x36, 0x8a] = .ok (.aesAddrk 0x8a) ∧
    decode [0x37] = .ok .aesRound ∧
    decode [0x38] = .ok .aesEnc ∧
    decode [0x39] = .ok .aesRdblk ∧
    decode [0x3a, 0x0a] = .ok (.aesRdrk 0x0a) ∧
    decode [0x3b, 0x53] = .ok (.aesSbox 0x53) :=
  ⟨rfl, rfl, rfl, rfl, rfl, rfl, rfl, rfl, rfl, rfl, rfl, rfl⟩

theorem test_decode_des :
    decode [0x40, 0x48, 0x69] = .ok (.desLdblk [0x48, 0x69]) ∧
    decode [0x41, 0x6b] = .ok (.desLdkey [0x6b]) ∧
    decode [0x42] = .ok .desKeysched ∧
    decode [0x43] = .ok .desIp ∧
    decode [0x44] = .ok .desRound ∧
    decode [0x45] = .ok .desFp ∧
    decode [0x46] = .ok .desEnc ∧
    decode [0x47] = .ok .desRdblk ∧
    decode [0x48] = .ok .desRdlr ∧
    decode [0x49, 0x10] = .ok (.desRdrk 0x10) ∧
    decode [0x4a, 0x01] = .ok (.desF 0x01) ∧
    decode [0x4b, 0x01, 0x18] = .ok (.desSbox 0x01 0x18) :=
  ⟨rfl, rfl, rfl, rfl, rfl, rfl, rfl, rfl, rfl, rfl, rfl, rfl⟩

theorem test_decode_format_faults :
    decode [0x00, 0x00] = .error .eFormat ∧
    decode [0x10, 0x01] = .error .eFormat ∧
    decode [0x11] = .error .eFormat ∧
    decode [0x14, 0x01, 0x02, 0x03, 0x04, 0x05] = .error .eFormat ∧
    decode [0x20] = .error .eFormat ∧
    decode [0x21, 0x01, 0x40, 0x00] = .error .eFormat ∧
    decode [0x22, 0x08, 0x08, 0xff] = .error .eFormat ∧
    decode [0x23, 0x1c, 0x01, 0xf0, 0xcc, 0xaa] = .error .eFormat ∧
    decode [0x36] = .error .eFormat ∧
    decode [0x32, 0x00] = .error .eFormat ∧
    decode [0x49] = .error .eFormat ∧
    decode [0x4b, 0x01] = .error .eFormat :=
  ⟨rfl, rfl, rfl, rfl, rfl, rfl, rfl, rfl, rfl, rfl, rfl, rfl⟩

theorem test_decode_empty : decode [] = .error .eFormat := rfl

theorem test_decode_illegal_opcodes :
    decode [0x03] = .error .eOpcode ∧
    decode [0x0f] = .error .eOpcode ∧
    decode [0x15] = .error .eOpcode ∧
    decode [0x24] = .error .eOpcode ∧
    decode [0x2f] = .error .eOpcode ∧
    decode [0x3c] = .error .eOpcode ∧
    decode [0x4c] = .error .eOpcode ∧
    decode [0x50] = .error .eOpcode ∧
    decode [0x99, 0x01, 0x02] = .error .eOpcode ∧
    decode [0xff] = .error .eOpcode :=
  ⟨rfl, rfl, rfl, rfl, rfl, rfl, rfl, rfl, rfl, rfl⟩

theorem test_table_word_one_operand : decodeTableWord 16 0x0336 = some (.aesAddrk 0x03) := by decide +kernel

theorem test_table_word_padded :
    decodeTableWord 24 0x080021 = some (.bvPerm 0x00 0x08 [0x00]) ∧ decodeTableWord 8 0x20 = some (.bvLdt [0x00]) := by
  decide +kernel

theorem test_with_fetch_word :
    lastRsp (step (State.reset.withFetchWord 24 0x831357)) = some [0x01] ∧
    lastRsp (step (State.reset.withFetchWord 24 0x835713)) = some [0x00, 0xc1] := by decide +kernel

/-! ## One step at a time: the engine (95_test_vectors.md sections 3.5 and 3.6) -/

theorem test_illegal_opcode :
    statusOf (step (sent [0x99, 0x01, 0x02])) = [0x01, 0x01, 0x99, 0x00, 0x00, 0x00] ∧
    lastRsp (step (sent [0x99, 0x01, 0x02])) = some [0x01] := by decide +kernel

theorem test_empty_packet :
    statusOf (step (sent [])) = [0x01, 0x02, 0x00, 0x00, 0x00, 0x00] ∧ lastRsp (step (sent [])) = some [0x02] := by
  decide +kernel

theorem test_faulted_refuses :
    [[0x00], [0x02, 0x00], [0x01, 0x00], [], [0x30, 0x00]].map (fun p => lastRsp (step { faulted with cmd := [p] })) =
      List.replicate 5 (some [0x07]) := by decide +kernel

theorem test_faulted_reads_status :
    lastRsp (step { faulted with cmd := [[0x02]] }) = some [0x00, 0x01, 0x01, 0x99, 0x00, 0x00, 0x00] := by
  decide +kernel

theorem test_faulted_reset :
    (nextOf (step { faulted with cmd := [[0x01]] })) = some { State.reset with rsp := [[0x00]] } := by decide +kernel

theorem test_low_reset_pin :
    nextOf (step { aesAt aesBlock 3 with rstN := false }) = some { State.reset with rstN := false } := by decide +kernel

theorem test_waits : nextOf (step (aesAt aesBlock 3)) = some (aesAt aesBlock 3) := by decide +kernel

theorem test_nop :
    lastRsp (exec .sysNop State.reset) = some [0x00] ∧ lastRsp (exec .sysNop faulted) = some [0x07] := by decide +kernel

theorem test_reset_clears :
    nextOf (exec .sysReset (desAt 1 2 3)) = some { State.reset with rsp := [[0x00]] } := by decide +kernel

theorem test_rdstat :
    lastRsp (exec .sysRdstat (aesAt aesBlock 11)) = some [0x00, 0x00, 0x00, 0x00, 0xeb, 0x00, 0x00] := by decide +kernel

/-! ## GF (section 3.1) -/

theorem test_gf_add :
    lastRsp (exec (.gfAdd 0x57 0x83) State.reset) = some [0x00, 0xd4] := by decide +kernel

theorem test_gf_mul2 :
    lastRsp (exec (.gfMul2 0x7f) State.reset) = some [0x00, 0xfe] ∧
    lastRsp (exec (.gfMul2 0x81) State.reset) = some [0x00, 0x19] := by decide +kernel

theorem test_gf_mul3 :
    lastRsp (exec (.gfMul3 0x57) State.reset) = some [0x00, 0xf9] ∧
    lastRsp (exec (.gfMul3 0xff) State.reset) = some [0x00, 0x1a] := by decide +kernel

theorem test_gf_mul :
    lastRsp (exec (.gfMul 0x57 0x83) State.reset) = some [0x00, 0xc1] ∧
    lastRsp (exec (.gfMul 0xff 0xff) State.reset) = some [0x00, 0x13] := by decide +kernel

theorem test_gf_mixcol :
    lastRsp (exec (.gfMixcol 0xdb 0x13 0x53 0x45) State.reset) = some [0x00, 0x8e, 0x4d, 0xa1, 0xbc] ∧
    lastRsp (exec (.gfMixcol 0x00 0x01 0x00 0x00) State.reset) = some [0x00, 0x03, 0x02, 0x01, 0x01] := by decide +kernel

/-! ## BV (section 3.2) -/

theorem test_bv_ldt :
    statusOf (exec (.bvLdt [0x40]) State.reset) = [0x00, 0x00, 0x00, 0x00, 0x00, 0x01] ∧
    lastRsp (exec (.bvLdt [0x01, 0x00]) State.reset) = some [0x03] ∧ lastRsp (exec (.bvLdt [0x41]) State.reset) = some [0x03] := by
  decide +kernel

theorem test_bv_perm_programmed :
    lastRsp (exec (.bvPerm 0x00 0x08 [0xb2]) (after [.bvLdt [8, 7, 6, 5, 4, 3, 2, 1]] State.reset)) = some [0x00, 0x4d] ∧
    lastRsp (exec (.bvPerm 0x00 0x08 [0xff]) State.reset) = some [0x05] := by
  decide +kernel

theorem test_bv_perm_rom :
    lastRsp (exec (.bvPerm 0x01 0x40 [0x01, 0x23, 0x45, 0x67, 0x89, 0xab, 0xcd, 0xef]) State.reset) = some [0x00, 0xcc, 0x00, 0xcc, 0xff, 0xf0, 0xaa, 0xf0, 0xaa] ∧
    lastRsp (exec (.bvPerm 0x02 0x40 [0xcc, 0x00, 0xcc, 0xff, 0xf0, 0xaa, 0xf0, 0xaa]) State.reset) = some [0x00, 0x01, 0x23, 0x45, 0x67, 0x89, 0xab, 0xcd, 0xef] ∧
    lastRsp (exec (.bvPerm 0x03 0x20 [0xf0, 0xaa, 0xf0, 0xaa]) State.reset) = some [0x00, 0x7a, 0x15, 0x55, 0x7a, 0x15, 0x55] ∧
    lastRsp (exec (.bvPerm 0x04 0x20 [0x5c, 0x82, 0xb5, 0x97]) State.reset) = some [0x00, 0x23, 0x4a, 0xa9, 0xbb] ∧
    lastRsp (exec (.bvPerm 0x05 0x40 [0x13, 0x34, 0x57, 0x79, 0x9b, 0xbc, 0xdf, 0xf1]) State.reset) = some [0x00, 0xf0, 0xcc, 0xaa, 0xf5, 0x56, 0x67, 0x8f] ∧
    lastRsp (exec (.bvPerm 0x06 0x38 [0xe1, 0x99, 0x55, 0xfa, 0xac, 0xcf, 0x1e]) State.reset) = some [0x00, 0x1b, 0x02, 0xef, 0xfc, 0x70, 0x72] ∧
    lastRsp (exec (.bvPerm 0x03 0x1f [0x00, 0x00, 0x00, 0x00]) State.reset) = some [0x06] := by decide +kernel

theorem test_bv_xor :
    lastRsp (exec (.bvXor 0x03 0x03 [0xa0] [0xdf]) State.reset) = some [0x00, 0x60] ∧
    lastRsp (exec (.bvXor 0x08 0x09 [0xff] [0xff, 0x80]) State.reset) = some [0x04] := by decide +kernel

theorem test_bv_rol :
    lastRsp (exec (.bvRol 0x1c 0x02 [0xf0, 0xcc, 0xaa, 0xff]) State.reset) = some [0x00, 0xc3, 0x32, 0xab, 0xf0] ∧
    lastRsp (exec (.bvRol 0x08 0x08 [0x81]) State.reset) = some [0x03] := by decide +kernel

/-! ## AES (sections 3.3 and 4.1) -/

theorem test_aes_ldblk :
    ((nextOf (exec (.aesLdblk [0x01, 0x02, 0x03]) (aesAt aesBlock 11))).map fun t => (t.S.bytes, t.sr3)) =
      some ([0x01, 0x02, 0x03, 0x00, 0x00, 0x00, 0x00, 0x00, 0x00, 0x00, 0x00, 0x00, 0x00, 0x00, 0x00, 0x00], 0xe0) := by
  decide +kernel

theorem test_aes_ldkey :
    ((nextOf (exec (.aesLdkey aesKey) (aesAt aesBlock 11))).map fun t => (t.word 0, t.word 3, t.word 4, t.sr3)) =
      some (⟨0x2b, 0x7e, 0x15, 0x16⟩, ⟨0x09, 0xcf, 0x4f, 0x3c⟩, ⟨0xa0, 0xfa, 0xfe, 0x17⟩, 0xcb) := by decide +kernel

theorem test_aes_keyexp :
    ((nextOf (exec .aesKeyexp (after [.aesLdkey aesKey] State.reset))).map fun t => (t.W, t.sr3, t.trc.length)) =
      some (Vector.ofFn fun i => keyWord aesSchedule i.val, 0x60, 40) := by decide +kernel

theorem test_aes_keyexp_trace :
    (traceOf (exec .aesKeyexp (after [.aesLdkey aesKey] State.reset)))[4]? =
      some [0x01, 0x08, 0x2a, 0x6c, 0x76, 0x05, 0xa0, 0xfa, 0xfe, 0x17, 0x52, 0x38, 0x6b, 0xe5, 0xf2, 0xc2, 0x95, 0xf2] := by
  decide +kernel

theorem test_aes_subbytes :
    traceOf (exec .aesSubbytes (aesAt [0x19, 0x3d, 0xe3, 0xbe, 0xa0, 0xf4, 0xe2, 0x2b, 0x9a, 0xc6, 0x8d, 0x2a, 0xe9, 0xf8, 0x48, 0x08] 1)) =
      [[0x02, 0x01] ++
        [0x19, 0x3d, 0xe3, 0xbe, 0xa0, 0xf4, 0xe2, 0x2b, 0x9a, 0xc6, 0x8d, 0x2a, 0xe9, 0xf8, 0x48, 0x08] ++
        [0xd4, 0x27, 0x11, 0xae, 0xe0, 0xbf, 0x98, 0xf1, 0xb8, 0xb4, 0x5d, 0xe5, 0x1e, 0x41, 0x52, 0x30]] := by
  decide +kernel

theorem test_aes_shiftrows :
    traceOf (exec .aesShiftrows (aesAt [0xd4, 0x27, 0x11, 0xae, 0xe0, 0xbf, 0x98, 0xf1, 0xb8, 0xb4, 0x5d, 0xe5, 0x1e, 0x41, 0x52, 0x30] 1)) =
      [[0x03, 0x01] ++
        [0xd4, 0x27, 0x11, 0xae, 0xe0, 0xbf, 0x98, 0xf1, 0xb8, 0xb4, 0x5d, 0xe5, 0x1e, 0x41, 0x52, 0x30] ++
        [0xd4, 0xbf, 0x5d, 0x30, 0xe0, 0xb4, 0x52, 0xae, 0xb8, 0x41, 0x11, 0xf1, 0x1e, 0x27, 0x98, 0xe5]] := by
  decide +kernel

theorem test_aes_mixcols :
    traceOf (exec .aesMixcols (aesAt [0xd4, 0xbf, 0x5d, 0x30, 0xe0, 0xb4, 0x52, 0xae, 0xb8, 0x41, 0x11, 0xf1, 0x1e, 0x27, 0x98, 0xe5] 1)) =
      [[0x04, 0x01] ++
        [0xd4, 0xbf, 0x5d, 0x30, 0xe0, 0xb4, 0x52, 0xae, 0xb8, 0x41, 0x11, 0xf1, 0x1e, 0x27, 0x98, 0xe5] ++
        [0x04, 0x66, 0x81, 0xe5, 0xe0, 0xcb, 0x19, 0x9a, 0x48, 0xf8, 0xd3, 0x7a, 0x28, 0x06, 0x26, 0x4c]] := by
  decide +kernel

theorem test_aes_addrk :
    traceOf (exec (.aesAddrk 0x01) (aesAt [0x04, 0x66, 0x81, 0xe5, 0xe0, 0xcb, 0x19, 0x9a, 0x48, 0xf8, 0xd3, 0x7a, 0x28, 0x06, 0x26, 0x4c] 0)) =
      [[0x05, 0x00, 0x01] ++
        [0x04, 0x66, 0x81, 0xe5, 0xe0, 0xcb, 0x19, 0x9a, 0x48, 0xf8, 0xd3, 0x7a, 0x28, 0x06, 0x26, 0x4c] ++
        [0xa0, 0xfa, 0xfe, 0x17, 0x88, 0x54, 0x2c, 0xb1, 0x23, 0xa3, 0x39, 0x39, 0x2a, 0x6c, 0x76, 0x05] ++
        [0xa4, 0x9c, 0x7f, 0xf2, 0x68, 0x9f, 0x35, 0x2b, 0x6b, 0x5b, 0xea, 0x43, 0x02, 0x6a, 0x50, 0x49]] := by
  decide +kernel

theorem test_aes_addrk_faults :
    lastRsp (exec (.aesAddrk 0x0b) State.reset) = some [0x03] ∧ lastRsp (exec (.aesAddrk 0x00) State.reset) = some [0x05] := by
  decide +kernel

theorem test_aes_round :
    ((nextOf (exec .aesRound (aesAt [0x19, 0x3d, 0xe3, 0xbe, 0xa0, 0xf4, 0xe2, 0x2b, 0x9a, 0xc6, 0x8d, 0x2a, 0xe9, 0xf8, 0x48, 0x08] 1))).map fun t => (t.S.bytes, t.sr3, t.trc.length)) =
      some ([0xa4, 0x9c, 0x7f, 0xf2, 0x68, 0x9f, 0x35, 0x2b, 0x6b, 0x5b, 0xea, 0x43, 0x02, 0x6a, 0x50, 0x49], 0xe2, 5) := by
  decide +kernel

theorem test_aes_round_10 :
    ((nextOf (exec .aesRound (aesAt [0xeb, 0x40, 0xf2, 0x1e, 0x59, 0x2e, 0x38, 0x84, 0x8b, 0xa1, 0x13, 0xe7, 0x1b, 0xc3, 0x42, 0xd2] 10))).map fun t => (t.sr3, t.trc.getLast?)) =
      some (0xeb, some [0x07, 0x39, 0x25, 0x84, 0x1d, 0x02, 0xdc, 0x09, 0xfb, 0xdc, 0x11, 0x85, 0x97, 0x19, 0x6a, 0x0b, 0x32]) := by
  decide +kernel

theorem test_aes_enc :
    lastRsp (exec .aesEnc (aesAt aesBlock 0)) =
      some [0x00, 0x39, 0x25, 0x84, 0x1d, 0x02, 0xdc, 0x09, 0xfb, 0xdc, 0x11, 0x85, 0x97, 0x19, 0x6a, 0x0b, 0x32] ∧
    (traceOf (exec .aesEnc (aesAt aesBlock 0))).length = 52 := by decide +kernel

theorem test_aes_enc_complete : lastRsp (exec .aesEnc (aesAt aesBlock 11)) = some [0x05] := by decide +kernel

theorem test_aes_rdblk :
    lastRsp (exec .aesRdblk (aesAt aesBlock 3)) = some (0x00 :: aesBlock) ∧
    lastRsp (exec .aesRdblk State.reset) = some [0x05] := by decide +kernel

theorem test_aes_rdrk :
    lastRsp (exec (.aesRdrk 0x0a) (aesAt aesBlock 0)) =
      some [0x00, 0xd0, 0x14, 0xf9, 0xa8, 0xc9, 0xee, 0x25, 0x89, 0xe1, 0x3f, 0x0c, 0xc8, 0xb6, 0x63, 0x0c, 0xa6] ∧
    lastRsp (exec (.aesRdrk 0x0b) (aesAt aesBlock 0)) = some [0x03] := by decide +kernel

theorem test_aes_sbox :
    lastRsp (exec (.aesSbox 0x53) State.reset) = some [0x00, 0xed] ∧
    lastRsp (exec (.aesSbox 0xff) State.reset) = some [0x00, 0x16] := by decide +kernel

/-! ## DES (sections 3.4, 4.2 and 5) -/

theorem test_des_ldblk :
    ((nextOf (exec (.desLdblk [0x48, 0x69]) (desAt 1 2 18))).map fun t => (t.DB, t.sr4)) =
      some (0x4869202020202020, 0xe0) := by decide +kernel

theorem test_des_ldkey :
    ((nextOf (exec (.desLdkey (desKey ++ [0xff])) (desAt 1 2 18))).map fun t => (t.DK, t.sr4)) =
      some (0x133457799bbcdff1, 0xd2) := by decide +kernel

theorem test_des_keysched :
    ((nextOf (exec .desKeysched (after [.desLdkey desKey] State.reset))).map fun t =>
      (t.K.toList, t.C, t.D, t.sr4, t.trc.length)) =
      some (desSchedule, 0xf0ccaaf, 0x556678f, 0x60, 33) := by decide +kernel

theorem test_des_keysched_trace :
    ((traceOf (exec .desKeysched (after [.desLdkey desKey] State.reset))).drop 1).head? =
      some [0x11, 0x01, 0x01, 0xf0, 0xcc, 0xaa, 0xf0, 0x55, 0x66, 0x78, 0xf0, 0xe1, 0x99, 0x55, 0xf0, 0xaa, 0xcc, 0xf1, 0xe0] := by
  decide +kernel

theorem test_des_ip :
    ((nextOf (exec .desIp (desAt 0 0 0))).map fun t => (t.L, t.R, t.DB, t.sr4)) =
      some (0xcc00ccff, 0xf0aaf0aa, 0x0123456789abcdef, 0xe1) ∧
    lastRsp (exec .desIp (desAt 0 0 1)) = some [0x05] ∧
    traceOf (exec .desIp (desAt 0 0 0)) =
      [[0x13, 0x01, 0x23, 0x45, 0x67, 0x89, 0xab, 0xcd, 0xef, 0xcc, 0x00, 0xcc, 0xff, 0xf0, 0xaa, 0xf0, 0xaa]] := by
  decide +kernel

theorem test_des_round :
    ((nextOf (exec .desRound (desAt 0xcc00ccff 0xf0aaf0aa 1))).map fun t => (t.L, t.R, t.sr4, t.trc.length)) =
      some (0xf0aaf0aa, 0xef4a6544, 0xe2, 13) := by decide +kernel

theorem test_des_round_bounds :
    lastRsp (exec .desRound (desAt 0 0 0)) = some [0x05] ∧ lastRsp (exec .desRound (desAt 0 0 17)) = some [0x05] ∧
    lastRsp (exec .desRound (desAt 0 0 16)) = some [0x00] := by decide +kernel

theorem test_des_fp :
    ((nextOf (exec .desFp (desAt 0x43423234 0x0a4cd995 17))).map fun t => (t.DB, t.L, t.R, t.sr4)) =
      some (0x85e813540f0ab405, 0x43423234, 0x0a4cd995, 0xf2) ∧
    lastRsp (exec .desFp (desAt 0 0 16)) = some [0x05] ∧
    traceOf (exec .desFp (desAt 0x43423234 0x0a4cd995 17)) =
      [[0x1a, 0x43, 0x42, 0x32, 0x34, 0x0a, 0x4c, 0xd9, 0x95, 0x0a, 0x4c, 0xd9, 0x95, 0x43, 0x42, 0x32, 0x34],
       [0x1b, 0x0a, 0x4c, 0xd9, 0x95, 0x43, 0x42, 0x32, 0x34, 0x85, 0xe8, 0x13, 0x54, 0x0f, 0x0a, 0xb4, 0x05],
       [0x1c, 0x85, 0xe8, 0x13, 0x54, 0x0f, 0x0a, 0xb4, 0x05]] := by decide +kernel

theorem test_des_enc :
    lastRsp (exec .desEnc (desAt 0 0 0)) = some [0x00, 0x85, 0xe8, 0x13, 0x54, 0x0f, 0x0a, 0xb4, 0x05] ∧
    (traceOf (exec .desEnc (desAt 0 0 0))).length = 212 := by decide +kernel

theorem test_des_enc_complete : lastRsp (exec .desEnc (desAt 0 0 18)) = some [0x05] := by decide +kernel

theorem test_des_rdblk : lastRsp (exec .desRdblk (desAt 0 0 5)) = some (0x00 :: desBlock) := by decide +kernel

theorem test_des_rdlr :
    lastRsp (exec .desRdlr (desAt 0xf0aaf0aa 0xef4a6544 2)) = some [0x00, 0xf0, 0xaa, 0xf0, 0xaa, 0xef, 0x4a, 0x65, 0x44] ∧
    lastRsp (exec .desRdlr (desAt 0 0 0)) = some [0x05] := by
  decide +kernel

theorem test_des_rdrk :
    lastRsp (exec (.desRdrk 0x01) (desAt 0 0 0)) = some [0x00, 0x1b, 0x02, 0xef, 0xfc, 0x70, 0x72] ∧
    lastRsp (exec (.desRdrk 0x10) (desAt 0 0 0)) = some [0x00, 0xcb, 0x3d, 0x8b, 0x0e, 0x17, 0xf5] := by decide +kernel

theorem test_des_rdrk_faults :
    lastRsp (exec (.desRdrk 0x00) (desAt 0 0 0)) = some [0x03] ∧ lastRsp (exec (.desRdrk 0x11) State.reset) = some [0x03] := by
  decide +kernel

theorem test_des_f :
    lastRsp (exec (.desF 0x01) (desAt 0xcc00ccff 0xf0aaf0aa 1)) = some [0x00, 0x23, 0x4a, 0xa9, 0xbb] ∧
    (traceOf (exec (.desF 0x01) (desAt 0xcc00ccff 0xf0aaf0aa 1)))[2]? = some [0x16, 0x01, 0x01, 0x18, 0x00, 0x0c, 0x05] := by
  decide +kernel

theorem test_des_sbox :
    lastRsp (exec (.desSbox 0x01 0x21) State.reset) = some [0x00, 0x0f] ∧
    lastRsp (exec (.desSbox 0x08 0x27) State.reset) = some [0x00, 0x07] ∧
    lastRsp (exec (.desSbox 0x09 0x00) State.reset) = some [0x03] ∧
    lastRsp (exec (.desSbox 0x01 0x40) State.reset) = some [0x03] := by decide +kernel

/-! ## The ports and the assembler (20_memory.md R62, R63; 30_encoding.md R116, R117) -/

theorem test_send_packet : State.reset.sendBytes (framed [0x11, 0x80]) = sent [0x11, 0x80] := by decide +kernel

theorem test_reset_discards_part :
    ((State.reset.sendByte 0x11 false).driveRstN false).driveRstN true = State.reset := by decide +kernel

theorem test_take_response :
    ((State.takeRspByte { State.reset with rsp := [[0x00, 0x1b], [0x07]] }).map fun p => (p.1, p.2.rsp)) =
      some ((0x00, false), [[0x1b], [0x07]]) := by decide +kernel

theorem test_assemble_sbox :
    assembleLine "DES.SBOX 1, 0x18   ; row 0, column 12".toList = some [[0x4b, 0x01, 0x18]] := by decide +kernel

theorem test_assemble_table :
    assembleLine "BV.LDT 3, 1, 2".toList = some [[0x20, 0x03, 0x01, 0x02]] := by decide +kernel

theorem test_hex_text : hexText [0xac, 0x0d] = "ac0d".toList := by decide +kernel

/-! ## The hypotheses of the statements are met -/

theorem test_witness_StepRunsDecodedCommand :
    (sent [0x11, 0x80]).rstN = true ∧ (sent [0x11, 0x80]).cmd = [0x11, 0x80] :: [] ∧
    decode [0x11, 0x80] = .ok (.gfMul2 0x80) := ⟨rfl, rfl, rfl⟩

theorem test_witness_UndecodablePacketTakesFault_opcode :
    (sent [0x99]).rstN = true ∧ (sent [0x99]).cmd = [0x99] :: [] ∧ (sent [0x99]).MODE = .run ∧
    decode [0x99] = .error .eOpcode := ⟨rfl, rfl, rfl, rfl⟩

theorem test_witness_UndecodablePacketTakesFault_empty :
    (sent []).rstN = true ∧ (sent []).cmd = [] :: [] ∧ (sent []).MODE = .run ∧ decode [] = .error .eFormat :=
  ⟨rfl, rfl, rfl, rfl⟩

theorem test_witness_FaultedModeExecutesOnlyResetAndStatus :
    { faulted with cmd := [[0x01, 0x00], [0x02]] }.rstN = true ∧
    { faulted with cmd := [[0x01, 0x00], [0x02]] }.cmd = [0x01, 0x00] :: [[0x02]] ∧
    { faulted with cmd := [[0x01, 0x00], [0x02]] }.MODE = .faulted := ⟨rfl, rfl, rfl⟩

theorem test_witness_OtherCommandsRefusedWhenFaulted :
    faulted.MODE = .faulted ∧ Instr.sysNop ≠ .sysReset ∧ Instr.sysNop ≠ .sysRdstat := by decide +kernel

theorem test_witness_ModeChangesOnlyByFaultAndReset_return :
    ∃ t, step { faulted with cmd := [[0x01]] } = .next t ∧ faulted.MODE = .faulted ∧ t.MODE = .run := ⟨_, rfl, rfl, rfl⟩

theorem test_witness_ModeChangesOnlyByFaultAndReset_pin :
    ∃ t, step { faulted with rstN := false } = .next t ∧ faulted.MODE = .faulted ∧ t.MODE = .run := ⟨_, rfl, rfl, rfl⟩

theorem test_witness_ModeChangesOnlyByFaultAndReset_fault :
    ∃ t, step (sent [0x99]) = .next t ∧ (sent [0x99]).MODE = .run ∧ t.MODE = .faulted := ⟨_, rfl, rfl, rfl⟩

theorem test_witness_HardResetAndWaiting :
    { faulted with rstN := false }.rstN = false ∧ faulted.rstN = true ∧ faulted.cmd = [] := ⟨rfl, rfl, rfl⟩

theorem test_witness_FaultsArePreciseForEveryCommand_success :
    State.reset.MODE = .run ∧ ∃ t, exec (.gfMul2 0x80) State.reset = .next t ∧ t.MODE = .run := ⟨rfl, _, rfl, rfl⟩

theorem test_witness_FaultsArePreciseForEveryCommand_fault :
    State.reset.MODE = .run ∧ ∃ t, exec (.aesAddrk 0x0b) State.reset = .next t ∧ t.MODE = .faulted := ⟨rfl, _, rfl, rfl⟩

/-- A state at the upper ends of the ranges of 10_state.md R40. -/
def atTheEnds : State :=
  { faulted with
    ARND := 11, DRND := 18, AKV := true, AKSV := true, DKV := true, DKSV := true, PT := Vector.replicate 64 64,
    PTLEN := 64, ERRCODE := 6, cmd := [[0x02]] }

theorem test_witness_EveryStepKeepsTheRanges : atTheEnds.InRange ∧ ∃ t, step atTheEnds = .next t :=
  ⟨⟨by decide, by decide, by decide, by decide +kernel, by decide +kernel, by decide, by decide, by decide, by decide⟩,
    _, rfl⟩

theorem test_witness_OneResponsePerPacket :
    (sent [0x39]).rstN = true ∧ (sent [0x39]).cmd = [0x39] :: [] ∧ ∃ t, step (sent [0x39]) = .next t :=
  ⟨rfl, rfl, _, rfl⟩

theorem test_witness_TraceOnlyGrowsByRecords :
    (∃ t, exec .aesSubbytes (aesAt aesBlock 0) = .next t) ∧ (∃ t, exec .sysNop faulted = .next t ∧ t.MODE = .faulted) ∧
    Instr.aesRdblk ∉ [Instr.aesKeyexp, .aesSubbytes, .aesShiftrows, .aesMixcols, .aesRound, .aesEnc, .desKeysched, .desIp,
      .desRound, .desFp, .desEnc] ∧ (∀ k, Instr.aesRdblk ≠ .aesAddrk k) ∧ (∀ k, Instr.aesRdblk ≠ .desF k) ∧
    ∃ t, exec .aesRdblk (aesAt aesBlock 0) = .next t :=
  ⟨⟨_, rfl⟩, ⟨_, rfl, rfl⟩, by decide, nofun, nofun, _, rfl⟩

/-- The reset state with other contents in registers whose flags are 0. -/
def withRubbish (s : State) : State :=
  { s with S := stateOf aesBlock, W := Vector.replicate 44 ⟨1, 2, 3, 4⟩, DB := 5, L := 6, C := 7, PT := Vector.replicate 64 9 }

theorem test_witness_InvalidRegistersAreUnobservable :
    (sent [0x31, 0x01]).LooksLike (withRubbish (sent [0x31, 0x01])) ∧ sent [0x31, 0x01] ≠ withRubbish (sent [0x31, 0x01]) ∧
    (∃ s', step (sent [0x31, 0x01]) = .next s') ∧ ∃ t', step (withRubbish (sent [0x31, 0x01])) = .next t' :=
  ⟨⟨⟨rfl, rfl, rfl, rfl, rfl, rfl, rfl, rfl, rfl⟩, ⟨rfl, rfl, rfl⟩, ⟨rfl, rfl, rfl⟩, ⟨rfl, rfl⟩, nofun, nofun, nofun,
    nofun, nofun, nofun, nofun, fun i h => absurd h (Nat.not_lt_zero i.val)⟩, by decide +kernel, ⟨_, rfl⟩, _, rfl⟩

theorem test_witness_SequencersMoveOnlyAsTabled :
    (aesAt aesBlock 10).MODE = .run ∧ ∃ t, exec .aesRound (aesAt aesBlock 10) = .next t ∧ t.MODE = .run :=
  ⟨rfl, _, rfl, by decide +kernel⟩

theorem test_witness_ValidFlagsMoveOnlyAsTabled :
    (desAt 0 0 17).MODE = .run ∧ ∃ t, exec (.desLdkey []) (desAt 0 0 17) = .next t ∧ t.MODE = .run := ⟨rfl, _, rfl, rfl⟩

theorem test_witness_UnitsAreIndependent_frame :
    Instr.gfMul2 0x80 ≠ .sysReset ∧ Instr.opcode (.gfMul2 0x80) = 0x11 ∧ (∀ es, Instr.gfMul2 0x80 ≠ .bvLdt es) ∧
    ∃ t, exec (.gfMul2 0x80) (desAt 1 2 3) = .next t := ⟨by decide, rfl, nofun, _, rfl⟩

theorem test_witness_UnitsAreIndependent_aes :
    (aesAt aesBlock 3).SameStatus { aesAt aesBlock 3 with DB := 5, DBV := true } ∧
    (aesAt aesBlock 3).SameAes { aesAt aesBlock 3 with DB := 5, DBV := true } ∧ Instr.aesRdblk.opcode.toNat / 16 = 3 ∧
    (∃ s', exec .aesRdblk (aesAt aesBlock 3) = .next s') ∧
    ∃ t', exec .aesRdblk { aesAt aesBlock 3 with DB := 5, DBV := true } = .next t' :=
  ⟨⟨rfl, rfl, rfl⟩, ⟨rfl, rfl, rfl, rfl, rfl, rfl⟩, rfl, ⟨_, rfl⟩, _, rfl⟩

theorem test_witness_UnitsAreIndependent_des :
    (desAt 1 2 3).SameStatus { desAt 1 2 3 with S := stateOf aesBlock, ASV := true } ∧
    (desAt 1 2 3).SameDes { desAt 1 2 3 with S := stateOf aesBlock, ASV := true } ∧
    Instr.desRdblk.opcode.toNat / 16 = 4 ∧ (∃ s', exec .desRdblk (desAt 1 2 3) = .next s') ∧
    ∃ t', exec .desRdblk { desAt 1 2 3 with S := stateOf aesBlock, ASV := true } = .next t' :=
  ⟨⟨rfl, rfl, rfl⟩, ⟨rfl, rfl, rfl, rfl, rfl, rfl, rfl, rfl, rfl, rfl, rfl⟩, rfl, ⟨_, rfl⟩, _, rfl⟩

theorem test_witness_DecodeAndEncodeAgree :
    (Instr.bvXor 0x09 0x00 [0xff, 0x80] []).wf = true ∧ decode [0x22, 0x00, 0x01, 0x80] = .ok (.bvXor 0x00 0x01 [] [0x80]) :=
  ⟨by decide, rfl⟩

theorem test_witness_PacketsCrossThePortsWhole :
    State.reset.rstN = true ∧ State.reset.cmdPart = [] ∧ [(0x11 : Byte), 0x80] ≠ [] ∧
    { State.reset with rsp := [[0x00, 0x1b]] }.rsp = [0x00, 0x1b] :: [] ∧ { State.reset with rsp := [[0x07]] }.rsp = [0x07] :: [] ∧
    { State.reset with trc := [[0x07, 0x01]] }.trc = [0x07, 0x01] :: [] ∧ { State.reset with trc := [[0x07]] }.trc = [0x07] :: [] := by
  decide +kernel

theorem test_witness_SysCommandsEffect : State.reset.MODE = .run ∧ faulted.MODE = .faulted := ⟨rfl, rfl⟩

theorem test_witness_RunMode :
    State.reset.MODE = .run ∧ (aesAt aesBlock 0).MODE = .run ∧ (desAt 0 0 0).MODE = .run := ⟨rfl, rfl, rfl⟩

theorem test_witness_GfArithmeticLaws : 0x80 ≤ (0x80 : Byte).toNat := by decide +kernel

theorem test_witness_BvLdtEffect :
    (1 ≤ [(0x00 : Byte)].length ∧ ∃ e ∈ [(0x00 : Byte)], e.toNat = 0 ∨ 64 < e.toNat) ∧
    (∃ e ∈ [(0x41 : Byte)], e.toNat = 0 ∨ 64 < e.toNat) ∧ (List.replicate 64 (0x40 : Byte)).length ≤ 64 ∧
    (∀ e ∈ List.replicate 64 (0x40 : Byte), 1 ≤ e.toNat ∧ e.toNat ≤ 64) ∧
    ∀ e ∈ [(0x01 : Byte)], 1 ≤ e.toNat ∧ e.toNat ≤ 64 := by decide +kernel

theorem test_witness_BvPermEffect_operand :
    State.reset.MODE = .run ∧ [(0x00 : Byte)].length = ((0x08 : Byte).toNat + 7) / 8 ∧ ¬ (0x07 : Byte).toNat ≤ 6 ∧
    ([] : List Byte).length = ((0x00 : Byte).toNat + 7) / 8 ∧ ¬ 1 ≤ (0x00 : Byte).toNat ∧
    (List.replicate 9 (0x00 : Byte)).length = ((0x41 : Byte).toNat + 7) / 8 ∧ ¬ (0x41 : Byte).toNat ≤ 64 := by
  decide +kernel

theorem test_witness_BvPermEffect_sequence :
    State.reset.MODE = .run ∧ ((0x00 : Byte).toNat ≤ 6 ∧ 1 ≤ (0x01 : Byte).toNat ∧ (0x01 : Byte).toNat ≤ 64) ∧
    ¬ ((0x00 : Byte).toNat = 0 → 1 ≤ State.reset.PTLEN.toNat) ∧ [(0x80 : Byte)].length = ((0x01 : Byte).toNat + 7) / 8 := by
  decide +kernel

theorem test_witness_BvPermEffect_index :
    ((0x06 : Byte).toNat ≤ 6 ∧ 1 ≤ (0x37 : Byte).toNat ∧ (0x37 : Byte).toNat ≤ 64) ∧
    ((0x06 : Byte).toNat = 0 → 1 ≤ State.reset.PTLEN.toNat) ∧
    (List.replicate 7 (0x00 : Byte)).length = ((0x37 : Byte).toNat + 7) / 8 ∧
    ∃ t ∈ [tableIP, tableFP, tableE, tableP, tablePC1, tablePC2].getD ((0x06 : Byte).toNat - 1) [], (0x37 : Byte).toNat < t := by
  decide +kernel

theorem test_witness_BvPermEffect_result :
    ((0x06 : Byte).toNat ≤ 6 ∧ 1 ≤ (0x38 : Byte).toNat ∧ (0x38 : Byte).toNat ≤ 64) ∧
    ((0x06 : Byte).toNat = 0 → 1 ≤ State.reset.PTLEN.toNat) ∧
    (List.replicate 7 (0x00 : Byte)).length = ((0x38 : Byte).toNat + 7) / 8 ∧
    ∀ t ∈ [tableIP, tableFP, tableE, tableP, tablePC1, tablePC2].getD ((0x06 : Byte).toNat - 1) [], t ≤ (0x38 : Byte).toNat := by
  decide +kernel

theorem test_witness_BvXorEffect :
    (([] : List Byte).length = ((0x00 : Byte).toNat + 7) / 8 ∧ ¬ 1 ≤ (0x00 : Byte).toNat) ∧
    ((List.replicate 9 (0x00 : Byte)).length = ((0x41 : Byte).toNat + 7) / 8 ∧ ¬ (0x41 : Byte).toNat ≤ 64) ∧
    ([(0xff : Byte)].length = ((0x01 : Byte).toNat + 7) / 8 ∧ (List.replicate 8 (0xff : Byte)).length = ((0x40 : Byte).toNat + 7) / 8 ∧
      (0x01 : Byte) ≠ 0x40 ∧ 1 ≤ (0x01 : Byte).toNat ∧ (0x01 : Byte).toNat ≤ 64 ∧ 1 ≤ (0x40 : Byte).toNat ∧ (0x40 : Byte).toNat ≤ 64) ∧
    [(0xa0 : Byte)].length = ((0x03 : Byte).toNat + 7) / 8 ∧ 1 ≤ (0x03 : Byte).toNat ∧ (0x03 : Byte).toNat ≤ 64 := by
  decide +kernel

theorem test_witness_BvRolEffect :
    ([(0x81 : Byte)].length = ((0x08 : Byte).toNat + 7) / 8 ∧ ¬ (0x08 : Byte).toNat < (0x08 : Byte).toNat) ∧
    (1 ≤ (0x08 : Byte).toNat ∧ (0x08 : Byte).toNat ≤ 64 ∧ (0x07 : Byte).toNat < (0x08 : Byte).toNat) ∧
    ((List.replicate 8 (0x00 : Byte)).length = ((0x40 : Byte).toNat + 7) / 8 ∧ 1 ≤ (0x40 : Byte).toNat ∧ (0x40 : Byte).toNat ≤ 64 ∧
      (0x00 : Byte).toNat < (0x40 : Byte).toNat) := by
  decide +kernel

theorem test_witness_AesKeyexpEffect :
    State.reset.MODE = .run ∧ State.reset.AKV = false ∧ (aesAt aesBlock 0).MODE = .run ∧ (aesAt aesBlock 0).AKV = true :=
  ⟨rfl, rfl, rfl, rfl⟩

theorem test_witness_AesTransformsEffect :
    State.reset.ASV = false ∧ (aesAt aesBlock 0).MODE = .run ∧ (aesAt aesBlock 0).ASV = true := ⟨rfl, rfl, rfl⟩

theorem test_witness_AesAddrkEffect :
    10 < (0x0b : Byte).toNat ∧ (0x0a : Byte).toNat ≤ 10 ∧ State.reset.ASV = false ∧ (aesAt aesBlock 0).ASV = true ∧
    (aesAt aesBlock 0).AKSV = true ∧ { aesAt aesBlock 0 with AKSV := false }.AKSV = false := by decide +kernel

theorem test_witness_AesRoundEffect :
    10 < (aesAt aesBlock 11).ARND.toNat ∧ (aesAt aesBlock 11).MODE = .run ∧ (aesAt aesBlock 10).MODE = .run ∧
    (aesAt aesBlock 10).ASV = true ∧ (aesAt aesBlock 10).AKSV = true ∧ (aesAt aesBlock 10).ARND.toNat ≤ 10 ∧
    State.reset.AKSV = false := by decide +kernel

theorem test_witness_AesEncEffect :
    10 < (aesAt aesBlock 11).ARND.toNat ∧ (aesAt aesBlock 0).MODE = .run ∧ (aesAt aesBlock 0).ASV = true ∧
    (aesAt aesBlock 0).AKSV = true ∧ (aesAt aesBlock 0).ARND.toNat ≤ 10 := by decide +kernel

theorem test_witness_AesSteppingEqualsRunning :
    (aesAt aesBlock 0).MODE = .run ∧ (aesAt aesBlock 0).ASV = true ∧ (aesAt aesBlock 0).AKSV = true ∧
    (aesAt aesBlock 0).ARND = 0 ∧ (aesAt aesBlock 9).ARND.toNat ≤ 9 := by decide +kernel

theorem test_witness_AesEncTraceCounts :
    (aesAt aesBlock 0).MODE = .run ∧ (aesAt aesBlock 0).ASV = true ∧ (aesAt aesBlock 0).AKSV = true ∧
    (aesAt aesBlock 0).ARND = 0 ∧ ∃ t, exec .aesEnc (aesAt aesBlock 0) = .next t := ⟨rfl, rfl, rfl, rfl, _, rfl⟩

theorem test_witness_AesReadsEffect :
    State.reset.ASV = false ∧ (aesAt aesBlock 0).ASV = true ∧ 10 < (0x0b : Byte).toNat ∧ (0x0a : Byte).toNat ≤ 10 ∧
    State.reset.AKSV = false ∧ (aesAt aesBlock 0).AKSV = true := by decide +kernel

theorem test_witness_AesSboxIsAffineImageOfInverse :
    gfMul 0x53 0xca = 1 ∧ (0x01 : Byte) ≠ 0 ∧ sbox 0x53 = sbox 0x53 := by decide +kernel

theorem test_witness_AesTransformsThatRestoreTheState :
    (aesAt aesBlock 5).MODE = .run ∧ (aesAt aesBlock 5).ASV = true ∧ (aesAt aesBlock 5).AKSV = true ∧
    (0x0a : Byte).toNat ≤ 10 := by decide +kernel

theorem test_witness_DesKeyschedEffect :
    State.reset.MODE = .run ∧ State.reset.DKV = false ∧ (desAt 0 0 0).MODE = .run ∧ (desAt 0 0 0).DKV = true :=
  ⟨rfl, rfl, rfl, rfl⟩

theorem test_witness_DesKeyParityBitsAreIgnored :
    (desAt 0 0 0).MODE = .run ∧ (desAt 0 0 0).DKV = true ∧
    { desAt 0 0 0 with DK := 0x123556789abddef0 }.DKV = true ∧ (desAt 0 0 0).DK ≠ 0x123556789abddef0 ∧
    (∀ p < 64, p % 8 ≠ 7 → (desAt 0 0 0).DK.getMsbD p = (0x123556789abddef0 : BitVec 64).getMsbD p) ∧
    (∃ t, exec .desKeysched (desAt 0 0 0) = .next t) ∧
    ∃ t, exec .desKeysched { desAt 0 0 0 with DK := 0x123556789abddef0 } = .next t :=
  ⟨rfl, rfl, rfl, by decide +kernel, by decide +kernel, ⟨_, rfl⟩, _, rfl⟩

theorem test_witness_DesIpAndFpEffect :
    State.reset.DBV = false ∧ (desAt 0 0 1).DRND ≠ 0 ∧ (desAt 0 0 0).DBV = true ∧ (desAt 0 0 0).DRND = 0 ∧
    (desAt 0 0 16).DRND ≠ 17 ∧ (desAt 0 0 18).DRND ≠ 17 ∧ (desAt 0 0 17).DBV = true ∧ (desAt 0 0 17).DRND = 17 := by
  decide +kernel

theorem test_witness_DesRoundEffect :
    State.reset.DBV = false ∧ (desAt 0 0 0).DRND.toNat = 0 ∧ 16 < (desAt 0 0 17).DRND.toNat ∧
    (desAt 0 0 1).DBV = true ∧ (desAt 0 0 1).DKSV = true ∧ 1 ≤ (desAt 0 0 1).DRND.toNat ∧ (desAt 0 0 16).DRND.toNat ≤ 16 := by
  decide +kernel

theorem test_witness_DesEncEffect :
    State.reset.DKSV = false ∧ 17 < (desAt 0 0 18).DRND.toNat ∧ (desAt 0 0 17).DBV = true ∧
    (desAt 0 0 17).DKSV = true ∧ (desAt 0 0 17).DRND.toNat ≤ 17 ∧ (desAt 0 0 0).DRND.toNat ≤ 17 := by decide +kernel

theorem test_witness_DesSteppingEqualsRunning :
    (desAt 0 0 0).MODE = .run ∧ (desAt 0 0 0).DBV = true ∧ (desAt 0 0 0).DKSV = true ∧ (desAt 0 0 0).DRND = 0 ∧
    1 ≤ (desAt 1 2 1).DRND.toNat ∧ (desAt 1 2 16).DRND.toNat ≤ 16 := by decide +kernel

theorem test_witness_DesEncTraceCounts :
    (desAt 0 0 0).MODE = .run ∧ (desAt 0 0 0).DBV = true ∧ (desAt 0 0 0).DKSV = true ∧ (desAt 0 0 0).DRND = 0 ∧
    ∃ t, exec .desEnc (desAt 0 0 0) = .next t := ⟨rfl, rfl, rfl, rfl, _, rfl⟩

theorem test_witness_DesReadsEffect :
    State.reset.DBV = false ∧ (desAt 1 2 1).DBV = true ∧ (desAt 0 0 0).DRND = 0 ∧ (desAt 1 2 1).DRND ≠ 0 ∧
    (0x00 : Byte).toNat = 0 ∧ 16 < (0x11 : Byte).toNat ∧ 1 ≤ (0x01 : Byte).toNat ∧ (0x10 : Byte).toNat ≤ 16 ∧
    State.reset.DKSV = false ∧ (desAt 0 0 0).DKSV = true := by decide +kernel

theorem test_witness_DesFEffect :
    16 < (0x11 : Byte).toNat ∧ 1 ≤ (0x10 : Byte).toNat ∧ (0x10 : Byte).toNat ≤ 16 ∧ (desAt 0 0 0).DRND = 0 ∧
    (desAt 1 2 18).DBV = true ∧ (desAt 1 2 18).DKSV = true ∧ (desAt 1 2 18).DRND ≠ 0 := by decide +kernel

theorem test_witness_DesSboxEffect :
    8 < (0x09 : Byte).toNat ∧ 63 < (0x40 : Byte).toNat ∧ 1 ≤ (0x01 : Byte).toNat ∧ (0x08 : Byte).toNat ≤ 8 ∧
    (0x3f : Byte).toNat ≤ 63 := by decide +kernel

end Sys2Proof.Tests
end

section
/-!
SUPPORT. What one step can do, said once: how a packet is decoded, what a command that completes leaves in the state,
and the cases of a step. The invariants and the claims about flags and sequencers go through these and unfold no
command.
-/

namespace Sys2Proof

/-- The transformations of the AES state register that leave the sequencer alone (42_aes.md R196 to R199). -/
def Instr.transformsAesState : Instr → Bool
  | .aesSubbytes | .aesShiftrows | .aesMixcols | .aesAddrk _ => true
  | _ => false

/-- The commands that give a response and neither write a register nor emit a trace packet. -/
def Instr.onlyAnswers : Instr → Bool
  | .sysNop | .sysRdstat | .gfAdd _ _ | .gfMul2 _ | .gfMul3 _ | .gfMul _ _ | .gfMixcol _ _ _ _ | .bvPerm _ _ _
  | .bvXor _ _ _ _ | .bvRol _ _ _ | .aesRdblk | .aesRdrk _ | .aesSbox _ | .desRdblk | .desRdlr | .desRdrk _
  | .desSbox _ _ => true
  | _ => false

end Sys2Proof

namespace Sys2Proof.Machine

/-! ## The codes of the decoder and of the `require` lines -/

@[simp] theorem formatF0_ne_eFaulted (i : Instr) (args : List Byte) : formatF0 i args ≠ .error .eFaulted := by
  unfold formatF0
  split <;> simp

@[simp] theorem formatF1_ne_eFaulted (mk : Byte → Instr) (args : List Byte) :
    formatF1 mk args ≠ .error .eFaulted := by
  unfold formatF1
  split <;> simp

@[simp] theorem formatF2_ne_eFaulted (mk : Byte → Byte → Instr) (args : List Byte) :
    formatF2 mk args ≠ .error .eFaulted := by
  unfold formatF2
  split <;> simp

@[simp] theorem formatF4_ne_eFaulted (mk : Byte → Byte → Byte → Byte → Instr) (args : List Byte) :
    formatF4 mk args ≠ .error .eFaulted := by
  unfold formatF4
  split <;> simp

@[simp] theorem formatFD_ne_eFaulted (mk : List Byte → Instr) (args : List Byte) :
    formatFD mk args ≠ .error .eFaulted := by
  simp [formatFD]

@[simp] theorem formatFT_ne_eFaulted (mk : List Byte → Instr) (args : List Byte) :
    formatFT mk args ≠ .error .eFaulted := by
  unfold formatFT
  split <;> simp

@[simp] theorem formatFP_ne_eFaulted (mk : Byte → Byte → List Byte → Instr) (args : List Byte) :
    formatFP mk args ≠ .error .eFaulted := by
  unfold formatFP
  split
  · split <;> simp
  · simp

@[simp] theorem formatFX_ne_eFaulted (mk : Byte → Byte → List Byte → List Byte → Instr) (args : List Byte) :
    formatFX mk args ≠ .error .eFaulted := by
  unfold formatFX
  split
  · split <;> simp
  · simp

@[simp] theorem formatFR_ne_eFaulted (mk : Byte → Byte → List Byte → Instr) (args : List Byte) :
    formatFR mk args ≠ .error .eFaulted := by
  unfold formatFR
  split
  · split <;> simp
  · simp

/-- The decoder never answers the code that stands for FAULTED mode (30_encoding.md R114; 60_exceptions.md R281). -/
theorem decode_ne_eFaulted (pkt : Packet) : decode pkt ≠ .error .eFaulted := by
  cases pkt with
  | nil => simp [decode]
  | cons op args =>
    simp only [decode, decodeOperands]
    split <;> simp

/-- The first failing `require` line is one of the lines. -/
theorem firstFailure_mem {checks : List (Bool × FaultCode)} {code : FaultCode} (h : firstFailure checks = some code) :
    ∃ c ∈ checks, c.2 = code := by
  induction checks with
  | nil => simp at h
  | cons c rest ih =>
    obtain ⟨_ | _, code'⟩ := c
    · exact ⟨(false, code'), by simp, by simpa [firstFailure] using h⟩
    · obtain ⟨d, hd, hcode⟩ := ih h
      exact ⟨d, by simp [hd], hcode⟩

/-- All `require` lines hold: the first one and the rest. -/
theorem firstFailure_require_eq_none (c : Prop) [Decidable c] (code : FaultCode) (rest : List (Bool × FaultCode)) :
    firstFailure (require c code :: rest) = none ↔ c ∧ firstFailure rest = none := by
  by_cases h : c <;> simp [h]

@[simp] theorem require_code (c : Prop) [Decidable c] (code : FaultCode) : (require c code).2 = code := rfl

/-- A code that may be recorded is one of 1..6 (60_exceptions.md R281). -/
theorem FaultCode.toByte_recorded {code : FaultCode} (h : code ≠ .eFaulted) :
    FaultCode.toByte code ≠ 0 ∧ (FaultCode.toByte code).toNat ≤ 6 := by
  cases code with
  | eFaulted => exact absurd rfl h
  | eOpcode | eFormat | eOperand | eLength | eSequence | eIndex => decide

/-! ## What a command that completes leaves -/

/-- The table that BV.LDT writes: the entries, then zeros (41_bitvector_permutation.md R162). -/
def loadedTable (entries : List Byte) : Vector (BitVec 7) 64 :=
  Vector.ofFn fun i => (entries.getD i.val 0).setWidth 7

/-- An entry in use of the table that BV.LDT loads is the entry given. -/
theorem loadedTable_used {entries : List Byte} (he : ∀ e ∈ entries, 1 ≤ e.toNat ∧ e.toNat ≤ 64) (i : Fin 64)
    (hi : i.val < entries.length) : 1 ≤ (loadedTable entries)[i].toNat ∧ (loadedTable entries)[i].toNat ≤ 64 := by
  have hrange := he entries[i.val] (List.getElem_mem hi)
  have hentry : (loadedTable entries)[i].toNat = entries[i.val].toNat := by
    simp [loadedTable, List.getD_eq_getElem?_getD, hi]
    omega
  omega

theorem loadedTable_free {entries : List Byte} (i : Fin 64) (hi : entries.length ≤ i.val) :
    (loadedTable entries)[i] = 0 := by
  simp [loadedTable, List.getD_eq_getElem?_getD, hi]

/-- `Completes s i t`: the command i, executed to its end in the state s, leaves the state t. Each constructor writes
out the registers its command writes, and keeps what bounds them; the data a command computes, the records it traces and its
result are left open. `exec_cases` ties this to `exec`. -/
inductive Completes (s : State) : Instr → State → Prop
  | sysReset : Completes s .sysReset (s.resetRegisters.ok [])
  | onlyAnswers {i : Instr} (result : List Byte) (hi : i.onlyAnswers = true) : Completes s i (s.ok result)
  | bvLdt (entries : List Byte) (table : Vector (BitVec 7) 64) (hlen : entries.length ≤ 64)
      (hused : ∀ i : Fin 64, i.val < entries.length → 1 ≤ table[i].toNat ∧ table[i].toNat ≤ 64)
      (hfree : ∀ i : Fin 64, entries.length ≤ i.val → table[i] = 0) :
      Completes s (.bvLdt entries) (State.ok { s with PT := table, PTLEN := BitVec.ofNat 7 entries.length } [])
  | aesLdblk (data : List Byte) (x : AesState) :
      Completes s (.aesLdblk data) (State.ok { s with S := x, ASV := true, ARND := 0 } [])
  | aesLdkey (data : List Byte) (words : Vector AesWord 44) :
      Completes s (.aesLdkey data) (State.ok { s with W := words, AKV := true, AKSV := false } [])
  | aesKeyexp (words : Vector AesWord 44) (ts : List TraceRecord) (hv : s.AKV = true) :
      Completes s .aesKeyexp (State.ok (State.emitAll { s with W := words, AKSV := true } ts) [])
  | aesTransform {i : Instr} (x : AesState) (ts : List TraceRecord) (hi : i.transformsAesState = true) :
      Completes s i (State.ok (State.emitAll { s with S := x } ts) [])
  | aesRound (x : AesState) (ts : List TraceRecord) (hr : s.ARND.toNat ≤ 10) :
      Completes s .aesRound (State.ok (State.emitAll { s with S := x, ARND := s.ARND + 1 } ts) [])
  | aesEnc (x : AesState) (ts : List TraceRecord) (result : List Byte) :
      Completes s .aesEnc (State.ok (State.emitAll { s with S := x, ARND := 11 } ts) result)
  | desLdblk (data : List Byte) (block : BitVec 64) :
      Completes s (.desLdblk data) (State.ok { s with DB := block, DBV := true, DRND := 0 } [])
  | desLdkey (data : List Byte) (key : BitVec 64) :
      Completes s (.desLdkey data) (State.ok { s with DK := key, DKV := true, DKSV := false } [])
  | desKeysched (c d : BitVec 28) (keys : Vector (BitVec 48) 16) (ts : List TraceRecord) (hv : s.DKV = true) :
      Completes s .desKeysched
        (State.ok (State.emitAll { s with C := c, D := d, K := keys, DKSV := true } ts) [])
  | desIp (l r : BitVec 32) (ts : List TraceRecord) :
      Completes s .desIp (State.ok (State.emitAll { s with L := l, R := r, DRND := 1 } ts) [])
  | desRound (l r : BitVec 32) (ts : List TraceRecord) (hr : s.DRND.toNat ≤ 16) :
      Completes s .desRound (State.ok (State.emitAll { s with L := l, R := r, DRND := s.DRND + 1 } ts) [])
  | desFp (block : BitVec 64) (ts : List TraceRecord) :
      Completes s .desFp (State.ok (State.emitAll { s with DB := block, DRND := 18 } ts) [])
  | desEnc (l r : BitVec 32) (block : BitVec 64) (ts : List TraceRecord) (result : List Byte) :
      Completes s .desEnc (State.ok (State.emitAll { s with L := l, R := r, DB := block, DRND := 18 } ts) result)
  | desF (n : Byte) (ts : List TraceRecord) (result : List Byte) :
      Completes s (.desF n) (State.ok (s.emitAll ts) result)

theorem completes_aesKeyexp {s : State} (hv : s.AKV = true) :
    Completes s .aesKeyexp (State.ok { s.expandKey with AKSV := true } []) := by
  obtain ⟨words, ts, h⟩ := s.expandKey_shape
  rw [h]
  exact .aesKeyexp words ts hv

theorem completes_aesRound {s : State} (hr : s.ARND.toNat ≤ 10) : Completes s .aesRound (s.doRound.ok []) := by
  obtain ⟨x, ts, h⟩ := s.doRound_shape
  rw [h]
  exact .aesRound x ts hr

theorem completes_aesEnc {s : State} (hr : s.ARND.toNat ≤ 10) (result : List Byte) :
    Completes s .aesEnc ((State.runRounds 11 s).ok result) := by
  obtain ⟨x, r, ts, h⟩ := State.runRounds_shape 11 s
  have hend : (State.runRounds 11 s).ARND = 11 := State.runRounds_ARND 11 s (by omega) (by omega)
  rw [h] at hend ⊢
  cases hend
  exact .aesEnc x ts result

theorem completes_desKeysched {s : State} (hv : s.DKV = true) :
    Completes s .desKeysched (State.ok { s.scheduleKeys with DKSV := true } []) := by
  obtain ⟨c, d, keys, ts, h⟩ := s.scheduleKeys_shape
  rw [h]
  exact .desKeysched c d keys ts hv

/-- The steps of DES.ENC write the halves, the block and the sequencer and add records, nothing else; wherever the
sequencer stood, the final step leaves it at 18. -/
theorem State.desEnc_shape (s : State) (n : Nat) :
    ∃ (l r : BitVec 32) (block : BitVec 64) (ts : List TraceRecord),
      (State.runDrounds n (if s.DRND.toNat = 0 then s.initialPermutation else s)).doDfinal =
        State.emitAll { s with L := l, R := r, DB := block, DRND := 18 } ts := by
  split
  · obtain ⟨l, r, d, ts, h⟩ := State.runDrounds_shape n s.initialPermutation
    rw [State.doDfinal_eq, h, State.initialPermutation_eq]
    exact ⟨l, r, permute 64 tableFP (r ++ l), .ip s.DB (permute 64 tableIP s.DB) :: ts ++
      [.swap l r (r ++ l), .fp (r ++ l) (permute 64 tableFP (r ++ l)), .dfinal (permute 64 tableFP (r ++ l))],
      by simp [State.emitAll]⟩
  · obtain ⟨l, r, d, ts, h⟩ := State.runDrounds_shape n s
    rw [State.doDfinal_eq, h]
    exact ⟨l, r, permute 64 tableFP (r ++ l), ts ++
      [.swap l r (r ++ l), .fp (r ++ l) (permute 64 tableFP (r ++ l)), .dfinal (permute 64 tableFP (r ++ l))],
      by simp [State.emitAll]⟩

theorem completes_desEnc (s : State) (n : Nat) (result : List Byte) :
    Completes s .desEnc
      ((State.runDrounds n (if s.DRND.toNat = 0 then s.initialPermutation else s)).doDfinal.ok result) := by
  obtain ⟨l, r, block, ts, h⟩ := s.desEnc_shape n
  rw [h]
  exact .desEnc l r block ts result

/-- Every command but the two that execute in both modes: its `require` lines name no code but 1..6, and when they hold
it completes. -/
theorem exec_command_completes (i : Instr) (s : State) (h1 : i ≠ .sysReset) (h2 : i ≠ .sysRdstat) :
    ∃ checks done, exec i s = command i s checks done ∧ (∀ c ∈ checks, c.2 ≠ .eFaulted) ∧
      (firstFailure checks = none → Completes s i done) := by
  cases i with
  | sysReset => exact absurd rfl h1
  | sysRdstat => exact absurd rfl h2
  | bvLdt entries =>
    refine ⟨_, _, rfl, by simp, fun hc => ?_⟩
    simp only [firstFailure_require_eq_none] at hc
    obtain ⟨⟨-, hlen⟩, hentries, -⟩ := hc
    exact .bvLdt entries (loadedTable entries) hlen (loadedTable_used hentries) loadedTable_free
  | aesLdblk data => exact ⟨_, _, rfl, by simp, fun _ => .aesLdblk data _⟩
  | aesLdkey data => exact ⟨_, _, rfl, by simp, fun _ => .aesLdkey data _⟩
  | aesKeyexp => exact ⟨_, _, rfl, by simp, fun hc => completes_aesKeyexp (by simpa using hc)⟩
  | aesSubbytes => exact ⟨_, _, rfl, by simp, fun _ => .aesTransform _ [.sub _ _ _] rfl⟩
  | aesShiftrows => exact ⟨_, _, rfl, by simp, fun _ => .aesTransform _ [.shift _ _ _] rfl⟩
  | aesMixcols => exact ⟨_, _, rfl, by simp, fun _ => .aesTransform _ [.mix _ _ _] rfl⟩
  | aesAddrk k => exact ⟨_, _, rfl, by simp, fun _ => .aesTransform _ [.ark _ _ _ _ _] rfl⟩
  | aesRound =>
    refine ⟨_, _, rfl, by simp, fun hc => ?_⟩
    simp only [firstFailure_require_eq_none] at hc
    obtain ⟨⟨-, -, hr⟩, -⟩ := hc
    exact completes_aesRound hr
  | aesEnc =>
    refine ⟨_, _, rfl, by simp, fun hc => ?_⟩
    simp only [firstFailure_require_eq_none] at hc
    obtain ⟨⟨-, -, hr⟩, -⟩ := hc
    exact completes_aesEnc hr _
  | desLdblk data => exact ⟨_, _, rfl, by simp, fun _ => .desLdblk data _⟩
  | desLdkey data => exact ⟨_, _, rfl, by simp, fun _ => .desLdkey data _⟩
  | desKeysched => exact ⟨_, _, rfl, by simp, fun hc => completes_desKeysched (by simpa using hc)⟩
  | desIp => exact ⟨_, _, rfl, by simp, fun _ => .desIp _ _ [.ip _ _]⟩
  | desRound =>
    refine ⟨_, _, rfl, by simp, fun hc => ?_⟩
    simp only [firstFailure_require_eq_none] at hc
    obtain ⟨⟨-, -, -, hr⟩, -⟩ := hc
    exact .desRound _ _ _ hr
  | desFp => exact ⟨_, _, rfl, by simp, fun _ => .desFp _ [.swap _ _ _, .fp _ _, .dfinal _]⟩
  | desEnc => exact ⟨_, _, rfl, by simp, fun _ => completes_desEnc s 16 _⟩
  | desF n => exact ⟨_, _, rfl, by simp, fun _ => .desF n _ _⟩
  | _ => exact ⟨_, _, rfl, by simp, fun _ => .onlyAnswers _ rfl⟩

/-- Everything executing a command can answer: the refusal in FAULTED mode, one fault, or the state that the command
leaves when it completes. -/
theorem exec_cases {i : Instr} {s t : State} (h : exec i s = .next t) :
    (s.MODE = .faulted ∧ t = s.refuseFaulted) ∨
      (s.MODE = .run ∧ ∃ code, code ≠ .eFaulted ∧ t = s.takeFault code i.opcode) ∨ Completes s i t := by
  by_cases h1 : i = .sysReset
  · subst h1
    cases h
    exact .inr (.inr .sysReset)
  by_cases h2 : i = .sysRdstat
  · subst h2
    cases h
    exact .inr (.inr (.onlyAnswers _ rfl))
  obtain ⟨checks, done, hexec, hcodes, hdone⟩ := exec_command_completes i s h1 h2
  rcases command_cases (hexec ▸ h) with hrefused | ⟨hm, code, hc, ht⟩ | ⟨-, hc, ht⟩
  · exact .inl hrefused
  · obtain ⟨c, hmem, hcode⟩ := firstFailure_mem hc
    exact .inr (.inl ⟨hm, code, hcode ▸ hcodes c hmem, ht⟩)
  · exact .inr (.inr (ht ▸ hdone hc))

/-- A command that starts and ends in RUN mode has completed. -/
theorem completes_of_exec {i : Instr} {s t : State} (hs : s.MODE = .run) (h : exec i s = .next t) (ht : t.MODE = .run) :
    Completes s i t := by
  rcases exec_cases h with ⟨hm, -⟩ | ⟨-, code, -, rfl⟩ | hc
  · simp [hs] at hm
  · simp at ht
  · exact hc

/-! ## The cases of a step -/

theorem step_held {s : State} (hr : s.rstN = false) : step s = .next State.heldInReset := by
  simp [step, hr]

theorem step_waits {s : State} (hr : s.rstN = true) (hc : s.cmd = []) : step s = .next s := by
  simp [step, hr, State.fetch_nil hc]

theorem step_executes {s : State} {pkt : Packet} {rest : List Packet} {i : Instr} (hr : s.rstN = true)
    (hc : s.cmd = pkt :: rest) (hd : decode pkt = .ok i) : step s = exec i { s with cmd := rest } := by
  simp [step, hr, State.fetch_cons hc, hd]

theorem step_rejects {s : State} {pkt : Packet} {rest : List Packet} {code : FaultCode} (hr : s.rstN = true)
    (hc : s.cmd = pkt :: rest) (hd : decode pkt = .error code) :
    step s = .next (State.rejectPacket { s with cmd := rest } pkt code) := by
  simp [step, hr, State.fetch_cons hc, hd]

/-- What rejecting a packet leaves: the refusal in FAULTED mode, the fault in RUN mode (60_exceptions.md R283, R286). -/
theorem State.rejectPacket_cases (s : State) (pkt : Packet) (code : FaultCode) :
    (s.MODE = .faulted ∧ s.rejectPacket pkt code = s.refuseFaulted) ∨
      (s.MODE = .run ∧ s.rejectPacket pkt code = s.takeFault code (pkt.headD 0x00)) := by
  cases hm : s.MODE with
  | run => exact .inr ⟨rfl, State.fail_run hm code _⟩
  | faulted => exact .inl ⟨rfl, State.fail_faulted hm code _⟩

/-- Every step holds the engine in reset, waits, or takes a packet and then refuses it, records one fault, or completes
a command. -/
theorem step_cases {s t : State} (h : step s = .next t) :
    t = State.heldInReset ∨ t = s ∨ ∃ rest : List Packet,
      t = State.refuseFaulted { s with cmd := rest } ∨
      (∃ code op, code ≠ .eFaulted ∧ t = State.takeFault { s with cmd := rest } code op) ∨
      ∃ i, Completes { s with cmd := rest } i t := by
  by_cases hr : s.rstN = false
  · rw [step_held hr] at h
    cases h
    exact .inl rfl
  have hr : s.rstN = true := by simpa using hr
  cases hc : s.cmd with
  | nil =>
    rw [step_waits hr hc] at h
    cases h
    exact .inr (.inl rfl)
  | cons pkt rest =>
    refine .inr (.inr ⟨rest, ?_⟩)
    cases hd : decode pkt with
    | ok i =>
      rw [step_executes hr hc hd] at h
      rcases exec_cases h with ⟨-, ht⟩ | ⟨-, code, hcode, ht⟩ | hdone
      · exact .inl ht
      · exact .inr (.inl ⟨code, i.opcode, hcode, ht⟩)
      · exact .inr (.inr ⟨i, hdone⟩)
    | error code =>
      rw [step_rejects hr hc hd] at h
      cases h
      rcases State.rejectPacket_cases { s with cmd := rest } pkt code with ⟨-, ht⟩ | ⟨-, ht⟩
      · exact .inl ht
      · exact .inr (.inl ⟨code, pkt.headD 0x00, fun he => decode_ne_eFaulted pkt (he ▸ hd), ht⟩)

end Sys2Proof.Machine
end
section
/-!
PROOFS. The family of 10_state.md: the reset values, the ranges of R40, and the movement of the sequencers and of the
valid flags.
-/

namespace Sys2Proof.Machine

/-! ## The reset state -/

/-- Settles O7: each clause is a field of the reset state, or an element of one of its registers. -/
theorem resetLeavesTheTabledValues : Obligations.ResetLeavesTheTabledValues := by
  refine ⟨by decide, fun i => ?_, rfl, rfl, rfl, rfl, rfl, rfl, rfl, rfl, rfl, rfl, fun i => ?_, rfl, rfl, rfl, rfl,
    fun i => ?_, rfl, rfl, rfl, rfl, rfl, rfl, rfl, rfl, rfl⟩
  all_goals simp

/-- Settles O10: the sequencers, `PTLEN`, the table, `ERRCODE` and the flags are all 0, and the mode is RUN. -/
theorem rangesHoldAtReset : Obligations.RangesHoldAtReset where
  arnd := by simp
  drnd := by simp
  ptlen := by simp
  ptUsed i hi := by simp at hi
  ptFree i _ := by simp
  errcode := by simp
  mode := by simp
  aksv := by simp
  dksv := by simp

/-! ## The sequencers and the valid flags -/

/-- Settles O16, by the ways a command can complete. -/
theorem sequencersMoveOnlyAsTabled : Obligations.SequencersMoveOnlyAsTabled := by
  intro i s t hs h ht
  cases completes_of_exec hs h ht with
  | onlyAnswers _ hi | aesTransform _ _ hi =>
    cases i with
    | sysReset | aesLdblk | aesRound | aesEnc | desLdblk | desIp | desRound | desFp | desEnc =>
      exact absurd hi Bool.false_ne_true
    | _ => exact ⟨rfl, rfl⟩
  | aesRound x ts hr => exact ⟨by simp; omega, rfl⟩
  | desRound l r ts hr => exact ⟨rfl, by simp; omega⟩
  | _ => exact ⟨rfl, rfl⟩

/-- Settles O17, by the ways a command can complete. -/
theorem validFlagsMoveOnlyAsTabled : Obligations.ValidFlagsMoveOnlyAsTabled := by
  intro i s t hs h ht
  cases completes_of_exec hs h ht with
  | onlyAnswers _ hi | aesTransform _ _ hi =>
    cases i with
    | sysReset | aesLdblk | aesLdkey | aesKeyexp | desLdblk | desLdkey | desKeysched =>
      exact absurd hi Bool.false_ne_true
    | _ => exact ⟨rfl, rfl, rfl, rfl, rfl, rfl⟩
  | _ => exact ⟨rfl, rfl, rfl, rfl, rfl, rfl⟩

/-! ## The ranges -/

/-- Fault entry keeps the ranges: it sets the mode together with a code of 1..6. -/
theorem State.InRange.takeFault {s : State} (h : s.InRange) {code : FaultCode} (hcode : code ≠ .eFaulted)
    (op : Byte) : (s.takeFault code op).InRange := by
  obtain ⟨hne, hle⟩ := FaultCode.toByte_recorded hcode
  exact { h with errcode := hle, mode := ⟨fun _ => hne, fun _ => rfl⟩ }

/-- Completing a command keeps the ranges. -/
theorem State.InRange.completes {s t : State} {i : Instr} (h : s.InRange) (hc : Completes s i t) : t.InRange := by
  cases hc with
  | sysReset => exact { rangesHoldAtReset with }
  | onlyAnswers result hi => exact { h with }
  | bvLdt entries table hlen hused hfree =>
    have hnat : (BitVec.ofNat 7 entries.length).toNat = entries.length := by simp; omega
    exact { h with
      ptlen := hnat.trans_le hlen
      ptUsed := fun i hi => hused i (hi.trans_eq hnat)
      ptFree := fun i hi => hfree i (hnat.symm.trans_le hi) }
  | aesLdblk data x => exact { h with arnd := Nat.zero_le _ }
  | aesLdkey data words => exact { h with aksv := nofun }
  | aesKeyexp words ts hv => exact { h with aksv := fun _ => hv }
  | aesTransform x ts hi => exact { h with }
  | aesRound x ts hr => exact { h with arnd := by simp; omega }
  | aesEnc x ts result => exact { h with arnd := Nat.le_refl 11 }
  | desLdblk data block => exact { h with drnd := Nat.zero_le _ }
  | desLdkey data key => exact { h with dksv := nofun }
  | desKeysched c d keys ts hv => exact { h with dksv := fun _ => hv }
  | desIp l r ts => exact { h with drnd := by simp }
  | desRound l r ts hr => exact { h with drnd := by simp; omega }
  | desFp block ts => exact { h with drnd := Nat.le_refl 18 }
  | desEnc l r block ts result => exact { h with drnd := Nat.le_refl 18 }
  | desF n ts result => exact { h with }

/-- Settles O11: each case of a step keeps the ranges. -/
theorem everyStepKeepsTheRanges : Obligations.EveryStepKeepsTheRanges := by
  intro s t h hstep
  rcases step_cases hstep with rfl | rfl | ⟨rest, ht⟩
  · exact { rangesHoldAtReset with }
  · exact h
  have hrest : State.InRange { s with cmd := rest } := { h with }
  rcases ht with rfl | ⟨code, op, hcode, rfl⟩ | ⟨i, hc⟩
  · exact { hrest with }
  · exact hrest.takeFault hcode op
  · exact hrest.completes hc

end Sys2Proof.Machine
end
section
/-!
PROOFS. No command observes a data register whose valid flag is 0 (10_state.md R39; 70_reset_and_hazards.md R312). Each
operation of the engine, run on two states that look alike, leaves two states that look alike, as soon as the `require`
lines of the command that runs it hold.
-/

namespace Sys2Proof.Machine

section

variable {s t : State}

/-! ## The shared operations -/

theorem State.LooksLike.ok (h : s.LooksLike t) {out out' : List Byte} (ho : out = out') :
    (s.ok out).LooksLike (t.ok out') :=
  { h with output := ⟨by simp [h.output.1, ho], h.output.2⟩ }

theorem State.LooksLike.emit (h : s.LooksLike t) {r r' : TraceRecord} (hr : r = r') :
    (s.emit r).LooksLike (t.emit r') :=
  { h with output := ⟨h.output.1, by simp [h.output.2, hr]⟩ }

theorem State.LooksLike.emitAll (h : s.LooksLike t) {rs rs' : List TraceRecord} (hr : rs = rs') :
    (s.emitAll rs).LooksLike (t.emitAll rs') :=
  { h with output := ⟨h.output.1, by simp [h.output.2, hr]⟩ }

theorem State.LooksLike.takeFault (h : s.LooksLike t) (code : FaultCode) (op : Byte) :
    (s.takeFault code op).LooksLike (t.takeFault code op) :=
  { h with
    status := ⟨rfl, rfl, rfl⟩
    output := ⟨by simp [h.output.1], h.output.2⟩ }

theorem State.LooksLike.refuseFaulted (h : s.LooksLike t) : s.refuseFaulted.LooksLike t.refuseFaulted :=
  { h with output := ⟨by simp [h.output.1], h.output.2⟩ }

theorem State.LooksLike.rejectPacket (h : s.LooksLike t) (pkt : Packet) (code : FaultCode) :
    (s.rejectPacket pkt code).LooksLike (t.rejectPacket pkt code) := by
  have hmode : s.MODE = t.MODE := h.status.1
  cases hm : s.MODE with
  | run =>
    simp only [State.rejectPacket, State.fail_run hm, State.fail_run (hmode ▸ hm)]
    exact h.takeFault code _
  | faulted =>
    simp only [State.rejectPacket, State.fail_faulted hm, State.fail_faulted (hmode ▸ hm)]
    exact h.refuseFaulted

theorem State.LooksLike.refl (s : State) : s.LooksLike s where
  control := ⟨rfl, rfl, rfl, rfl, rfl, rfl, rfl, rfl, rfl⟩
  status := ⟨rfl, rfl, rfl⟩
  input := ⟨rfl, rfl, rfl⟩
  output := ⟨rfl, rfl⟩
  aesState _ := rfl
  aesKey _ _ _ := rfl
  aesSchedule _ := rfl
  desBlock _ := rfl
  desKey _ := rfl
  desHalves _ _ := ⟨rfl, rfl⟩
  desSchedule _ := rfl
  table _ _ := rfl

/-- SYS.RESET gives both states the reset values; only the streams and the pin come from before. -/
theorem State.LooksLike.resetRegisters (h : s.LooksLike t) : s.resetRegisters.LooksLike t.resetRegisters :=
  { State.LooksLike.refl State.reset with
    input := h.input
    output := h.output }

theorem State.LooksLike.statusBytes (h : s.LooksLike t) : s.statusBytes = t.statusBytes := by
  obtain ⟨hmode, hcode, hop⟩ := h.status
  simp [State.statusBytes, State.sr0, State.sr1, State.sr2, State.sr3, State.sr4, State.sr5, h.control, hmode, hcode,
    hop]

/-- A command run on two states that look alike: the same `require` line decides for both, and when all hold the two
effects must look alike. -/
theorem command_looksLike {i : Instr} {done done' s' t' : State} {checks checks' : List (Bool × FaultCode)}
    (h : s.LooksLike t) (hs : command i s checks done = .next s') (ht : command i t checks' done' = .next t')
    (hchecks : firstFailure checks = firstFailure checks')
    (hdone : firstFailure checks = none → done.LooksLike done') : s'.LooksLike t' := by
  have hmode : s.MODE = t.MODE := h.status.1
  rcases command_cases hs with ⟨hm, rfl⟩ | ⟨hm, code, hc, rfl⟩ | ⟨hm, hc, rfl⟩
  · rw [command_refused (hmode ▸ hm)] at ht
    cases ht
    exact h.refuseFaulted
  · rw [command_fails (hmode ▸ hm) (hchecks ▸ hc)] at ht
    cases ht
    exact h.takeFault code _
  · rw [command_done (hmode ▸ hm) (hchecks ▸ hc)] at ht
    cases ht
    exact hdone hc

/-- The same for a command with one `require` line. -/
theorem require_looksLike {i : Instr} {done done' s' t' : State} {c c' : Prop} [Decidable c] [Decidable c']
    {code : FaultCode} (h : s.LooksLike t) (hs : command i s [require c code] done = .next s')
    (ht : command i t [require c' code] done' = .next t') (hiff : c ↔ c') (hdone : c → done.LooksLike done') :
    s'.LooksLike t' :=
  command_looksLike h hs ht (by simp [hiff]) fun hc => hdone ((firstFailure_require_eq_none c code []).1 hc).1

/-- The same for a command with a line on its operand, which is no part of the state, before the one on the state. -/
theorem operand_looksLike {i : Instr} {done done' s' t' : State} {o c c' : Prop} [Decidable o] [Decidable c]
    [Decidable c'] {code code' : FaultCode} (h : s.LooksLike t)
    (hs : command i s [require o code, require c code'] done = .next s')
    (ht : command i t [require o code, require c' code'] done' = .next t') (hiff : c ↔ c')
    (hdone : c → done.LooksLike done') : s'.LooksLike t' := by
  refine command_looksLike h hs ht (by simp [hiff]) fun hc => ?_
  simp only [firstFailure_require_eq_none] at hc
  obtain ⟨-, hc, -⟩ := hc
  exact hdone hc

/-! ## The AES engine -/

/-- A transformation of the state register with its record. -/
theorem State.LooksLike.traceS (h : s.LooksLike t) {x y : AesState} {r r' : TraceRecord} (hx : x = y) (hr : r = r') :
    (State.emit { s with S := x } r).LooksLike (State.emit { t with S := y } r') :=
  State.LooksLike.emit (s := { s with S := x }) (t := { t with S := y }) { h with aesState := fun _ => hx } hr

theorem State.LooksLike.doSub (h : s.LooksLike t) (hv : s.ASV = true) : s.doSub.LooksLike t.doSub :=
  h.traceS (by rw [h.aesState hv]) (by simp [h.aesState hv, h.control])

theorem State.LooksLike.doShift (h : s.LooksLike t) (hv : s.ASV = true) : s.doShift.LooksLike t.doShift :=
  h.traceS (by rw [h.aesState hv]) (by simp [h.aesState hv, h.control])

theorem State.LooksLike.doMix (h : s.LooksLike t) (hv : s.ASV = true) : s.doMix.LooksLike t.doMix :=
  h.traceS (by rw [h.aesState hv]) (by simp [h.aesState hv, h.control])

theorem State.LooksLike.roundKey (h : s.LooksLike t) (hk : s.AKSV = true) (k : Nat) : s.roundKey k = t.roundKey k := by
  simp [State.roundKey, State.word, h.aesSchedule hk]

theorem State.LooksLike.doArk (h : s.LooksLike t) (hv : s.ASV = true) (hk : s.AKSV = true) (k : Nat) :
    (s.doArk k).LooksLike (t.doArk k) :=
  have hxor : s.addRoundKey k = t.addRoundKey k := by simp [State.addRoundKey, h.aesState hv, h.roundKey hk]
  h.traceS hxor (by simp [hxor, h.aesState hv, h.roundKey hk, h.control])

theorem State.LooksLike.roundSteps (h : s.LooksLike t) (hv : s.ASV = true) (hk : s.AKSV = true) (r : Nat) :
    (s.roundSteps r).LooksLike (t.roundSteps r) := by
  unfold State.roundSteps
  split
  · exact h.doArk hv hk 0
  · split
    · exact (((h.doSub hv).doShift hv).doMix hv).doArk hv hk r
    · exact ((h.doSub hv).doShift hv).doArk hv hk Config.aesRounds

@[simp] theorem State.roundSteps_ASV (s : State) (r : Nat) : (s.roundSteps r).ASV = s.ASV := by
  obtain ⟨x, ts, h⟩ := s.roundSteps_shape r
  rw [h]

@[simp] theorem State.doRound_ASV (s : State) : s.doRound.ASV = s.ASV := by
  obtain ⟨x, ts, h⟩ := s.doRound_shape
  rw [h]

@[simp] theorem State.doRound_AKSV (s : State) : s.doRound.AKSV = s.AKSV := by
  obtain ⟨x, ts, h⟩ := s.doRound_shape
  rw [h]

@[simp] theorem State.runRounds_ASV (n : Nat) (s : State) : (State.runRounds n s).ASV = s.ASV := by
  obtain ⟨x, r, ts, h⟩ := State.runRounds_shape n s
  rw [h]

theorem State.LooksLike.doRound (h : s.LooksLike t) (hv : s.ASV = true) (hk : s.AKSV = true) :
    s.doRound.LooksLike t.doRound := by
  have hr : t.ARND = s.ARND := by simp [h.control]
  have hsteps := h.roundSteps hv hk s.ARND.toNat
  have hS := hsteps.aesState (by simpa using hv)
  have hround := State.LooksLike.emit (r := .around s.ARND.toNat s.S (s.roundSteps s.ARND.toNat).S)
    (r' := .around s.ARND.toNat t.S (t.roundSteps s.ARND.toNat).S)
    (s := { s.roundSteps s.ARND.toNat with ARND := s.ARND + 1 })
    (t := { t.roundSteps s.ARND.toNat with ARND := s.ARND + 1 })
    { hsteps with control := ⟨rfl, hsteps.control.2⟩ } (by rw [h.aesState hv, hS])
  simp only [State.doRound, hr]
  split
  · exact hround.emit (congrArg TraceRecord.afinal hS)
  · exact hround

theorem State.LooksLike.runRounds (h : s.LooksLike t) (hv : s.ASV = true) (hk : s.AKSV = true) (n : Nat) :
    (State.runRounds n s).LooksLike (State.runRounds n t) := by
  induction n generalizing s t with
  | zero => exact h
  | succ n ih =>
    have hr : t.ARND = s.ARND := by simp [h.control]
    simp only [State.runRounds, hr]
    split
    · exact ih (h.doRound hv hk) (by simpa using hv) (by simpa using hk)
    · exact h

/-! ## The AES key schedule: each word comes from words before it -/

theorem State.expandWord_word (s : State) {i : Nat} (hi : i < 44) (j : Nat) :
    (s.expandWord i).word j = if j = i then (s.word (i - 4)).xor (s.scheduleTemp i) else s.word j :=
  State.word_setW s i j _ hi

/-- The two key files agree below word i, and so do the traces. -/
def State.SameWordsBelow (i : Nat) (s t : State) : Prop := s.trc = t.trc ∧ ∀ j < i, s.word j = t.word j

theorem State.SameWordsBelow.expandWord {i : Nat} (h : State.SameWordsBelow i s t) (h4 : 4 ≤ i) (hi : i < 44) :
    State.SameWordsBelow (i + 1) (s.expandWord i) (t.expandWord i) := by
  obtain ⟨htrc, hw⟩ := h
  have hprev := hw (i - 1) (by omega)
  have hback := hw (i - 4) (by omega)
  have htemp : s.scheduleTemp i = t.scheduleTemp i := by simp [State.scheduleTemp, hprev]
  refine ⟨by simp [State.expandWord_eq, htrc, hprev, hback, htemp], fun j hj => ?_⟩
  rw [State.expandWord_word s hi, State.expandWord_word t hi, hback, htemp]
  split
  · rfl
  · exact hw j (by omega)

theorem State.SameWordsBelow.expandWords {i : Nat} (n : Nat) (h : State.SameWordsBelow i s t) (h4 : 4 ≤ i)
    (hn : i + n ≤ 44) :
    State.SameWordsBelow (i + n) ((List.range' i n).foldl State.expandWord s)
      ((List.range' i n).foldl State.expandWord t) := by
  induction n generalizing i s t with
  | zero => exact h
  | succ n ih =>
    rw [List.range'_succ, List.foldl_cons, List.foldl_cons, show i + (n + 1) = i + 1 + n by omega]
    exact ih (h.expandWord h4 (by omega)) (by omega) (by omega)

theorem State.LooksLike.expandKey (h : s.LooksLike t) (hv : s.AKV = true) :
    State.LooksLike { s.expandKey with AKSV := true } { t.expandKey with AKSV := true } := by
  have hstart : State.SameWordsBelow 4 s t := ⟨h.output.2, h.aesKey hv⟩
  obtain ⟨htrc, hw⟩ : State.SameWordsBelow 44 s.expandKey t.expandKey := hstart.expandWords 40 (by omega) (by omega)
  have hW : s.expandKey.W = t.expandKey.W := Vector.ext fun j hj => by
    rw [← State.word_eq_getElem _ j hj, ← State.word_eq_getElem _ j hj, hw j hj]
  obtain ⟨words, ts, hs⟩ := s.expandKey_shape
  obtain ⟨words', ts', ht⟩ := t.expandKey_shape
  rw [hs, ht] at htrc hW ⊢
  cases hW
  exact { h with
    control := by simp [h.control]
    output := ⟨h.output.1, htrc⟩
    aesKey := fun _ _ _ => rfl
    aesSchedule := fun _ => rfl }

/-! ## The DES engine -/

theorem State.LooksLike.initialPermutation (h : s.LooksLike t) (hv : s.DBV = true) :
    s.initialPermutation.LooksLike t.initialPermutation := by
  have hblock : s.DB = t.DB := h.desBlock hv
  rw [State.initialPermutation_eq, State.initialPermutation_eq, hblock]
  exact { h with
    control := by simp [h.control]
    output := ⟨h.output.1, by simp [h.output.2]⟩
    desBlock := fun _ => rfl
    desHalves := fun _ _ => ⟨rfl, rfl⟩ }

theorem State.LooksLike.roundKey48 (h : s.LooksLike t) (hk : s.DKSV = true) (i : Nat) :
    s.roundKey48 i = t.roundKey48 i := by
  simp [State.roundKey48, h.desSchedule hk]

/-- The two states look alike and hold the same halves, whatever the sequencer lets a command read of them. -/
structure State.SameHalves (s t : State) : Prop where
  looksLike : s.LooksLike t
  halves : s.L = t.L ∧ s.R = t.R

theorem State.SameHalves.doDround (h : State.SameHalves s t) (hk : s.DKSV = true) :
    State.SameHalves s.doDround t.doDround := by
  obtain ⟨h, hL, hR⟩ := h
  have hr : s.DRND = t.DRND := by simp [h.control]
  have hkey := h.roundKey48 hk t.DRND.toNat
  rw [State.doDround_eq, State.doDround_eq, hr, hL, hR, hkey]
  exact ⟨{ h with
      control := by simp [h.control]
      output := ⟨h.output.1, by simp [h.output.2]⟩
      desHalves := fun _ _ => ⟨rfl, rfl⟩ }, rfl, rfl⟩

theorem State.SameHalves.runDrounds (h : State.SameHalves s t) (hk : s.DKSV = true) (n : Nat) :
    State.SameHalves (State.runDrounds n s) (State.runDrounds n t) := by
  induction n generalizing s t with
  | zero => exact h
  | succ n ih =>
    have hr : t.DRND = s.DRND := by simp [h.looksLike.control]
    simp only [State.runDrounds, hr]
    split
    · exact ih (h.doDround hk) hk
    · exact h

theorem State.SameHalves.doDfinal (h : State.SameHalves s t) :
    s.doDfinal.LooksLike t.doDfinal ∧ s.doDfinal.DB = t.doDfinal.DB := by
  obtain ⟨h, hL, hR⟩ := h
  rw [State.doDfinal_eq, State.doDfinal_eq, hL, hR]
  exact ⟨{ h with
    control := by simp [h.control]
    output := ⟨h.output.1, by simp [h.output.2]⟩
    desBlock := fun _ => rfl
    desHalves := fun _ _ => ⟨rfl, rfl⟩ }, rfl⟩

/-- The halves that DES.ENC starts from: those of the initial permutation, or those the sequencer lets it read. -/
theorem State.LooksLike.desEncStart (h : s.LooksLike t) (hv : s.DBV = true) :
    State.SameHalves (if s.DRND.toNat = 0 then s.initialPermutation else s)
      (if t.DRND.toNat = 0 then t.initialPermutation else t) := by
  have hr : t.DRND = s.DRND := by simp [h.control]
  rw [hr]
  split
  · have hip := h.initialPermutation hv
    exact ⟨hip, hip.desHalves hv (Nat.le_refl 1)⟩
  · exact ⟨h, h.desHalves hv (by omega)⟩

/-! ## The DES key schedule: it starts from the key register alone -/

/-- The halves of the permuted key, the traces and the round keys 1..n are the same. -/
structure State.SameKeysTo (n : Nat) (s t : State) : Prop where
  halves : s.C = t.C ∧ s.D = t.D
  trace : s.trc = t.trc
  keys : ∀ j < n, s.K[j]? = t.K[j]?

theorem State.LooksLike.scheduleStart (h : s.LooksLike t) (hv : s.DKV = true) :
    State.SameKeysTo 0 s.scheduleStart t.scheduleStart := by
  rw [State.scheduleStart_eq, State.scheduleStart_eq, h.desKey hv]
  exact ⟨⟨rfl, rfl⟩, by simp [h.output.2], nofun⟩

theorem State.SameKeysTo.scheduleRound {n : Nat} (h : State.SameKeysTo n s t) :
    State.SameKeysTo (n + 1) (s.scheduleRound (n + 1)) (t.scheduleRound (n + 1)) := by
  obtain ⟨⟨hC, hD⟩, htrc, hkeys⟩ := h
  rw [State.scheduleRound_eq, State.scheduleRound_eq, hC, hD]
  refine ⟨⟨rfl, rfl⟩, by simp [htrc], fun j hj => ?_⟩
  simp only [Vector.getElem?_setIfInBounds, Nat.add_sub_cancel]
  split
  · rfl
  · exact hkeys j (by omega)

theorem State.SameKeysTo.scheduleRounds {n : Nat} (m : Nat) (h : State.SameKeysTo n s t) :
    State.SameKeysTo (n + m) ((List.range' (n + 1) m).foldl State.scheduleRound s)
      ((List.range' (n + 1) m).foldl State.scheduleRound t) := by
  induction m generalizing n s t with
  | zero => exact h
  | succ m ih =>
    rw [List.range'_succ, List.foldl_cons, List.foldl_cons, show n + (m + 1) = n + 1 + m by omega]
    exact ih h.scheduleRound

theorem State.LooksLike.scheduleKeys (h : s.LooksLike t) (hv : s.DKV = true) :
    State.LooksLike { s.scheduleKeys with DKSV := true } { t.scheduleKeys with DKSV := true } := by
  obtain ⟨-, htrc, hkeys⟩ : State.SameKeysTo (0 + 16) s.scheduleKeys t.scheduleKeys :=
    (h.scheduleStart hv).scheduleRounds 16
  have hK : s.scheduleKeys.K = t.scheduleKeys.K := Vector.ext fun j hj => by simpa [hj] using hkeys j hj
  obtain ⟨c, d, keys, ts, hs⟩ := s.scheduleKeys_shape
  obtain ⟨c', d', keys', ts', ht⟩ := t.scheduleKeys_shape
  rw [hs, ht] at htrc hK ⊢
  exact { h with
    control := by simp [h.control]
    output := ⟨h.output.1, htrc⟩
    desSchedule := fun _ => hK }

/-! ## The programmable table -/

/-- A selector names the same table in both states: the entries in use, or a constant table. -/
theorem State.LooksLike.permTable (h : s.LooksLike t) (sel : Byte) : permTable sel s = permTable sel t := by
  have hlen : s.PTLEN = t.PTLEN := by simp [h.control]
  unfold Machine.permTable
  split
  · congr 1
    rw [← hlen]
    refine List.ext_getElem (by simp) fun i hi _ => ?_
    simp only [List.length_take, Vector.length_toList] at hi
    simpa using h.table ⟨i, by omega⟩ (by simp; omega)
  all_goals rfl

theorem State.LooksLike.loadTable (h : s.LooksLike t) (table : Vector (BitVec 7) 64) (len : BitVec 7) :
    State.LooksLike { s with PT := table, PTLEN := len } { t with PT := table, PTLEN := len } :=
  { h with control := by simp [h.control], table := fun _ _ => rfl }

/-! ## Every command, and the step -/

/-- AES.LDKEY writes the same four key words over whatever the key file holds. -/
theorem State.setKeyWords_word (s : State) (key : List Byte) {j : Nat} (hj : j < 4) :
    State.word { s with W := s.setKeyWords key } j = keyWord key j := by
  interval_cases j <;> simp [State.setKeyWords, State.word, List.range_succ]

/-- Executing a command on two states that look alike. In each case the `require` lines give the valid flags and the
sequencer value under which the registers that the effect reads are the same. -/
theorem exec_looksLike {i : Instr} {s' t' : State} (h : s.LooksLike t) (hs : exec i s = .next s')
    (ht : exec i t = .next t') : s'.LooksLike t' := by
  cases i with
  | sysReset =>
    cases hs
    cases ht
    exact h.resetRegisters.ok rfl
  | sysRdstat =>
    cases hs
    cases ht
    exact h.ok h.statusBytes
  | sysNop | gfAdd | gfMul2 | gfMul3 | gfMul | gfMixcol | bvXor | bvRol | aesSbox | desSbox =>
    exact command_looksLike h hs ht rfl fun _ => h.ok rfl
  | bvLdt entries => exact command_looksLike h hs ht rfl fun _ => (h.loadTable _ _).ok rfl
  | bvPerm sel nbits data =>
    refine command_looksLike h hs ht ?_ fun _ => h.ok ?_
    · rw [h.permTable sel]
      simp [h.control]
    · rw [h.permTable sel]
  | aesLdblk data =>
    refine command_looksLike h hs ht rfl fun _ => State.LooksLike.ok ?_ rfl
    exact { h with control := by simp [h.control], aesState := fun _ => rfl }
  | aesLdkey data =>
    refine command_looksLike h hs ht rfl fun _ => State.LooksLike.ok ?_ rfl
    exact { h with
      control := by simp [h.control]
      aesKey := fun _ j hj => (s.setKeyWords_word _ hj).trans (t.setKeyWords_word _ hj).symm
      aesSchedule := nofun }
  | aesKeyexp =>
    exact require_looksLike h hs ht (by simp [h.control]) fun hv => (h.expandKey hv).ok rfl
  | aesSubbytes =>
    exact require_looksLike h hs ht (by simp [h.control]) fun hv => (h.doSub hv).ok rfl
  | aesShiftrows =>
    exact require_looksLike h hs ht (by simp [h.control]) fun hv => (h.doShift hv).ok rfl
  | aesMixcols =>
    exact require_looksLike h hs ht (by simp [h.control]) fun hv => (h.doMix hv).ok rfl
  | aesAddrk k =>
    exact operand_looksLike h hs ht (by simp [h.control]) fun ⟨hv, hk⟩ => (h.doArk hv hk k.toNat).ok rfl
  | aesRound =>
    exact require_looksLike h hs ht (by simp [h.control]) fun ⟨hv, hk, _⟩ => (h.doRound hv hk).ok rfl
  | aesEnc =>
    refine require_looksLike h hs ht (by simp [h.control]) fun ⟨hv, hk, _⟩ => ?_
    have hrun := h.runRounds hv hk (Config.aesRounds + 1)
    exact hrun.ok (by rw [hrun.aesState (by simpa using hv)])
  | aesRdblk =>
    exact require_looksLike h hs ht (by simp [h.control]) fun hv => h.ok (by rw [h.aesState hv])
  | aesRdrk k =>
    exact operand_looksLike h hs ht (by simp [h.control]) fun hk => h.ok (by rw [h.roundKey hk])
  | desLdblk data =>
    refine command_looksLike h hs ht rfl fun _ => State.LooksLike.ok ?_ rfl
    exact { h with
      control := by simp [h.control]
      desBlock := fun _ => rfl
      desHalves := fun _ hd => absurd hd (Nat.not_succ_le_zero 0) }
  | desLdkey data =>
    refine command_looksLike h hs ht rfl fun _ => State.LooksLike.ok ?_ rfl
    exact { h with control := by simp [h.control], desKey := fun _ => rfl, desSchedule := nofun }
  | desKeysched =>
    exact require_looksLike h hs ht (by simp [h.control]) fun hv => (h.scheduleKeys hv).ok rfl
  | desIp =>
    exact require_looksLike h hs ht (by simp [h.control]) fun ⟨hv, _⟩ => (h.initialPermutation hv).ok rfl
  | desRound =>
    refine require_looksLike h hs ht (by simp [h.control]) fun ⟨hv, hk, hr, _⟩ => ?_
    obtain ⟨hround, -⟩ := State.SameHalves.doDround ⟨h, h.desHalves hv hr⟩ hk
    exact hround.ok rfl
  | desFp =>
    refine require_looksLike h hs ht (by simp [h.control]) fun ⟨hv, hr⟩ => ?_
    obtain ⟨hfinal, -⟩ := State.SameHalves.doDfinal ⟨h, h.desHalves hv (by omega)⟩
    exact hfinal.ok rfl
  | desEnc =>
    refine require_looksLike h hs ht (by simp [h.control]) fun ⟨hv, hk, _⟩ => ?_
    obtain ⟨hfinal, hblock⟩ := ((h.desEncStart hv).runDrounds (by split <;> exact hk) Config.desRounds).doDfinal
    exact hfinal.ok (congrArg pack hblock)
  | desRdblk =>
    exact require_looksLike h hs ht (by simp [h.control]) fun hv => h.ok (by rw [h.desBlock hv])
  | desRdlr =>
    refine require_looksLike h hs ht (by simp [h.control]) fun ⟨hv, hr⟩ => ?_
    obtain ⟨hL, hR⟩ := h.desHalves hv hr
    exact h.ok (by rw [hL, hR])
  | desRdrk n =>
    exact operand_looksLike h hs ht (by simp [h.control]) fun hk => h.ok (by rw [h.roundKey48 hk])
  | desF n =>
    refine operand_looksLike h hs ht (by simp [h.control]) fun ⟨hv, hk, hr⟩ => ?_
    obtain ⟨-, hR⟩ := h.desHalves hv hr
    exact (h.emitAll (by rw [hR, h.roundKey48 hk])).ok (by rw [hR, h.roundKey48 hk])

end

/-- Settles O15: both states take the same branch of the step, and the same packet off CMD. -/
theorem invalidRegistersAreUnobservable : Obligations.InvalidRegistersAreUnobservable := by
  intro s t s' t' h hs ht
  obtain ⟨hcmd, -, hpin⟩ := h.input
  by_cases hr : s.rstN = false
  · rw [step_held hr] at hs
    rw [step_held (hpin ▸ hr)] at ht
    cases hs
    cases ht
    exact .refl _
  have hr : s.rstN = true := by simpa using hr
  cases hc : s.cmd with
  | nil =>
    rw [step_waits hr hc] at hs
    rw [step_waits (hpin ▸ hr) (hcmd ▸ hc)] at ht
    cases hs
    cases ht
    exact h
  | cons pkt rest =>
    have hrest : State.LooksLike { s with cmd := rest } { t with cmd := rest } :=
      { h with input := ⟨rfl, h.input.2⟩ }
    cases hd : decode pkt with
    | ok i =>
      rw [step_executes hr hc hd] at hs
      rw [step_executes (hpin ▸ hr) (hcmd ▸ hc) hd] at ht
      exact exec_looksLike hrest hs ht
    | error code =>
      rw [step_rejects hr hc hd] at hs
      rw [step_rejects (hpin ▸ hr) (hcmd ▸ hc) hd] at ht
      cases hs
      cases ht
      exact hrest.rejectPacket pkt code

end Sys2Proof.Machine
end
section
/-!
SUPPORT. What a run of rounds leaves, exactly: the AES rounds and the Feistel rounds as the functions that the statements
write them in, and how many trace packets they emit and with which round numbers (20_memory.md R77, R78).
-/

namespace Sys2Proof.Machine

open Sys2Proof.Claims

/-! ## The round numbers of the packets of one kind -/

/-- The second bytes of the packets with a tag, in order: for a round-level record, the round's number. -/
def roundNumbers (tag : Byte) (packets : List Packet) : List Nat :=
  (packets.filter fun p => p.headD 0 == tag).map fun p => (p.getD 1 0).toNat

@[simp] theorem roundNumbers_nil (tag : Byte) : roundNumbers tag [] = [] := rfl

@[simp] theorem roundNumbers_append (tag : Byte) (ps qs : List Packet) :
    roundNumbers tag (ps ++ qs) = roundNumbers tag ps ++ roundNumbers tag qs := by
  simp [roundNumbers]

/-- Records of other kinds contribute no round number. -/
theorem roundNumbers_other {tag : Byte} {ts : List TraceRecord} (h : ∀ t ∈ ts, t.tag ≠ tag) :
    roundNumbers tag (ts.map TraceRecord.packet) = [] := by
  simpa [roundNumbers, TraceRecord.packet] using h

theorem roundNumbers_around {r : Nat} (hr : r < 256) (a z : AesState) :
    roundNumbers 0x06 [(TraceRecord.around r a z).packet] = [r] := by
  simp [roundNumbers, TraceRecord.packet, TraceRecord.tag, TraceRecord.fields, numericField, Nat.mod_eq_of_lt hr]

theorem roundNumbers_dround {i : Nat} (hi : i < 256) (l r l' r' : BitVec 32) :
    roundNumbers 0x19 [(TraceRecord.dround i l r l' r').packet] = [i] := by
  simp [roundNumbers, TraceRecord.packet, TraceRecord.tag, TraceRecord.fields, numericField, Nat.mod_eq_of_lt hi]

/-- A sequencer advanced by one and then by n is advanced by n + 1. -/
theorem sequencer_add {w : Nat} (x : BitVec w) (n : Nat) : x + 1 + BitVec.ofNat w n = x + BitVec.ofNat w (n + 1) := by
  rw [BitVec.ofNat_add, BitVec.add_comm (BitVec.ofNat w n), ← BitVec.add_assoc]
  rfl

/-! ## The AES rounds -/

theorem State.roundKey_eq (s : State) (k : Nat) : s.roundKey k = roundKeyOf s.W k := rfl

/-- `do_round()` writes the state register as round `ARND` does, advances the sequencer and emits the records of that
round (42_aes.md R192). -/
theorem State.doRound_eq {s : State} (hr : s.ARND.toNat ≤ 10) :
    s.doRound = { s with
      S := aesRoundState s.W s.ARND.toNat s.S
      ARND := s.ARND + 1
      trc := s.trc ++ (aesRoundRecords s.W s.ARND.toNat s.S).map TraceRecord.packet } := by
  by_cases h0 : s.ARND.toNat = 0
  · simp [State.doRound, State.roundSteps, State.doArk_eq, State.roundKey_eq, State.emit, aesRoundRecords, aesRoundState,
      h0, Config.aesRounds]
  by_cases h9 : s.ARND.toNat ≤ 9
  · have hlt : s.ARND.toNat < 10 := by omega
    have hne : s.ARND.toNat ≠ 10 := by omega
    simp [State.doRound, State.roundSteps, State.doSub_eq, State.doShift_eq, State.doMix_eq, State.doArk_eq,
      State.roundKey_eq, State.emit, aesRoundRecords, aesRoundState, h0, h9, hlt, hne, Config.aesRounds]
  · have h10 : s.ARND.toNat = 10 := by omega
    simp [State.doRound, State.roundSteps, State.doSub_eq, State.doShift_eq, State.doArk_eq, State.roundKey_eq, State.emit,
      aesRoundRecords, aesRoundState, h10, Config.aesRounds]

theorem State.runRounds_succ {s : State} (hr : s.ARND.toNat ≤ 10) (n : Nat) :
    State.runRounds (n + 1) s = State.runRounds n s.doRound :=
  if_pos hr

/-- Rounds up to the last one write what `aesRounds` says and emit its records, nothing else (42_aes.md R201). -/
theorem State.runRounds_eq (n : Nat) {s : State} (hn : s.ARND.toNat + n ≤ 11) :
    State.runRounds n s = { s with
      S := (aesRounds s.W n s.ARND.toNat s.S).1
      ARND := s.ARND + BitVec.ofNat 4 n
      trc := s.trc ++ (aesRounds s.W n s.ARND.toNat s.S).2.map TraceRecord.packet } := by
  induction n generalizing s with
  | zero => simp [State.runRounds, aesRounds]
  | succ n ih =>
    have hr : s.ARND.toNat ≤ 10 := by omega
    have hnext : (s.ARND + 1).toNat = s.ARND.toNat + 1 := by simp; omega
    rw [State.runRounds_succ hr, ih (by rw [State.doRound_eq hr]; simp only [hnext]; omega), State.doRound_eq hr]
    simp only [hnext, sequencer_add, aesRounds, List.map_append, List.append_assoc]

theorem aesRoundRecords_length (W : Vector AesWord 44) {r : Nat} (hr : r ≤ 10) (a : AesState) :
    (aesRoundRecords W r a).length = if r = 0 then 2 else 5 := by
  unfold aesRoundRecords
  by_cases h0 : r = 0
  · simp [h0]
  by_cases h9 : r ≤ 9
  · have hne : r ≠ 10 := by omega
    simp [h0, h9, hne]
  · have h10 : r = 10 := by omega
    simp [h10]

/-- A round emits one round-level record, with its own number. -/
theorem aesRoundRecords_roundNumbers (W : Vector AesWord 44) {r : Nat} (hr : r ≤ 10) (a : AesState) :
    roundNumbers 0x06 ((aesRoundRecords W r a).map TraceRecord.packet) = [r] := by
  simp only [aesRoundRecords, List.map_append, List.map_cons, List.map_nil, roundNumbers_append,
    roundNumbers_around (show r < 256 by omega)]
  rw [roundNumbers_other, roundNumbers_other]
  · rfl
  · split <;> simp [TraceRecord.tag]
  · split
    · simp [TraceRecord.tag]
    · split <;> simp [TraceRecord.tag]

/-- The last record of round 10 is the final one. -/
theorem aesRoundRecords_getLast (W : Vector AesWord 44) (a : AesState) :
    (aesRoundRecords W 10 a).getLast? = some (.afinal (aesRoundState W 10 a)) := by
  simp [aesRoundRecords]

/-- Rounds after round 0 emit five records each. -/
theorem aesRounds_length (W : Vector AesWord 44) (n : Nat) {r : Nat} (h0 : r ≠ 0) (hn : r + n ≤ 11) (a : AesState) :
    (aesRounds W n r a).2.length = 5 * n := by
  induction n generalizing r a with
  | zero => rfl
  | succ n ih =>
    rw [aesRounds, List.length_append, aesRoundRecords_length W (by omega), if_neg h0, ih (by omega) (by omega)]
    omega

theorem aesRounds_roundNumbers (W : Vector AesWord 44) (n : Nat) {r : Nat} (hn : r + n ≤ 11) (a : AesState) :
    roundNumbers 0x06 ((aesRounds W n r a).2.map TraceRecord.packet) = List.range' r n := by
  induction n generalizing r a with
  | zero => rfl
  | succ n ih =>
    rw [aesRounds, List.map_append, roundNumbers_append, aesRoundRecords_roundNumbers W (by omega), ih (by omega)]
    rfl

/-- Rounds that end with round 10 emit the final record last, with the state they end in. -/
theorem aesRounds_getLast (W : Vector AesWord 44) (n : Nat) {r : Nat} (hn : r + n = 10) (a : AesState) :
    (aesRounds W (n + 1) r a).2.getLast? = some (.afinal (aesRounds W (n + 1) r a).1) := by
  induction n generalizing r a with
  | zero =>
    obtain rfl : r = 10 := hn
    simp [aesRounds, aesRoundRecords_getLast]
  | succ n ih =>
    rw [aesRounds, List.getLast?_append, ih (by omega)]
    rfl

/-! ## The Feistel rounds -/

theorem State.roundKey48_eq (s : State) (i : Nat) : s.roundKey48 i = keyOf s.K i := rfl

theorem State.runDrounds_succ {s : State} (hr : s.DRND.toNat ≤ 16) (n : Nat) :
    State.runDrounds (n + 1) s = State.runDrounds n s.doDround :=
  if_pos hr

/-- Feistel rounds up to the last one write what `feistelRounds` says and emit the records of `feistelTrace`, nothing
else (43_des.md R234, R236). -/
theorem State.runDrounds_eq (n : Nat) {s : State} (hn : s.DRND.toNat + n ≤ 17) :
    State.runDrounds n s = { s with
      L := (feistelRounds s.K n s.DRND.toNat (s.L, s.R)).1
      R := (feistelRounds s.K n s.DRND.toNat (s.L, s.R)).2
      DRND := s.DRND + BitVec.ofNat 5 n
      trc := s.trc ++ (feistelTrace s.K n s.DRND.toNat (s.L, s.R)).map TraceRecord.packet } := by
  induction n generalizing s with
  | zero => simp [State.runDrounds, feistelRounds, feistelTrace]
  | succ n ih =>
    have hr : s.DRND.toNat ≤ 16 := by omega
    have hnext : (s.DRND + 1).toNat = s.DRND.toNat + 1 := by simp; omega
    rw [State.runDrounds_succ hr, ih (by rw [State.doDround_eq]; simp only [hnext]; omega), State.doDround_eq]
    simp only [State.roundKey48_eq, hnext, sequencer_add, feistelRounds, feistelTrace, List.map_append, List.append_assoc]

/-- What remains of an encryption once the halves are in place: the rounds, then the final step (43_des.md R234 to
R236). -/
theorem State.finishDes_eq (n : Nat) {s : State} (hn : s.DRND.toNat + n ≤ 17) :
    (State.runDrounds n s).doDfinal =
      let lr := feistelRounds s.K n s.DRND.toNat (s.L, s.R)
      let out := permute 64 tableFP (lr.2 ++ lr.1)
      { s with
        L := lr.1
        R := lr.2
        DB := out
        DRND := 18
        trc := s.trc ++ (feistelTrace s.K n s.DRND.toNat (s.L, s.R) ++
          [TraceRecord.swap lr.1 lr.2 (lr.2 ++ lr.1), .fp (lr.2 ++ lr.1) out, .dfinal out]).map TraceRecord.packet } := by
  rw [State.doDfinal_eq, State.runDrounds_eq n hn]
  simp only [List.map_append, List.append_assoc]
  rfl

theorem feistelRecords_length (i : Nat) (r : BitVec 32) (key : BitVec 48) : (feistelRecords i r key).length = 11 := by
  simp [feistelRecords]

/-- The F-function emits no Feistel-round record. -/
theorem feistelRecords_roundNumbers (i : Nat) (r : BitVec 32) (key : BitVec 48) :
    roundNumbers 0x19 ((feistelRecords i r key).map TraceRecord.packet) = [] := by
  refine roundNumbers_other fun t ht => ?_
  simp only [feistelRecords, List.mem_append, List.mem_cons, List.mem_map, List.not_mem_nil, or_false] at ht
  rcases ht with ((rfl | rfl) | ⟨j, -, rfl⟩) | rfl <;> simp [TraceRecord.tag]

theorem feistelTrace_length (K : Vector (BitVec 48) 16) (n i : Nat) (lr : BitVec 32 × BitVec 32) :
    (feistelTrace K n i lr).length = 13 * n := by
  induction n generalizing i lr with
  | zero => rfl
  | succ n ih =>
    simp only [feistelTrace, List.length_append, feistelRecords_length, ih, List.length_cons, List.length_nil]
    omega

/-- Each Feistel round emits one Feistel-round record, with its own number. -/
theorem feistelTrace_roundNumbers (K : Vector (BitVec 48) 16) (n : Nat) {i : Nat} (hn : i + n ≤ 256)
    (lr : BitVec 32 × BitVec 32) :
    roundNumbers 0x19 ((feistelTrace K n i lr).map TraceRecord.packet) = List.range' i n := by
  induction n generalizing i lr with
  | zero => rfl
  | succ n ih =>
    have hlxor (l f r' : BitVec 32) : roundNumbers 0x19 [(TraceRecord.lxor i l f r').packet] = [] :=
      roundNumbers_other (ts := [.lxor i l f r']) (by simp [TraceRecord.tag])
    simp only [feistelTrace, List.map_append, List.map_cons, List.map_nil, roundNumbers_append,
      feistelRecords_roundNumbers, ih (show i + 1 + n ≤ 256 by omega)]
    rw [← List.singleton_append, roundNumbers_append, hlxor, roundNumbers_dround (by omega)]
    rfl

end Sys2Proof.Machine
end
section
/-!
PROOFS. The family of 20_memory.md: one response for each packet, what stands on the trace stream, the records of the
trace, and the ports.
-/

namespace Sys2Proof

/-- The commands that can emit trace packets (20_memory.md R77, R78); those of R79 are the others. -/
def Instr.mayTrace : Instr → Bool
  | .aesKeyexp | .aesSubbytes | .aesShiftrows | .aesMixcols | .aesAddrk _ | .aesRound | .aesEnc | .desKeysched | .desIp
  | .desRound | .desFp | .desEnc | .desF _ => true
  | _ => false

theorem Instr.mayTrace_of_transformsAesState {i : Instr} (h : i.transformsAesState = true) : i.mayTrace = true := by
  cases i with
  | aesSubbytes | aesShiftrows | aesMixcols | aesAddrk => rfl
  | _ => exact absurd h Bool.false_ne_true

/-- A command that can trace is one of the eleven without operand, AES.ADDRK or DES.F. -/
theorem Instr.mem_of_mayTrace {i : Instr} (h : i.mayTrace = true) :
    i ∈ [Instr.aesKeyexp, .aesSubbytes, .aesShiftrows, .aesMixcols, .aesRound, .aesEnc, .desKeysched, .desIp, .desRound,
      .desFp, .desEnc] ∨ (∃ k, i = .aesAddrk k) ∨ ∃ k, i = .desF k := by
  cases i with
  | aesAddrk k => exact .inr (.inl ⟨k, rfl⟩)
  | desF k => exact .inr (.inr ⟨k, rfl⟩)
  | aesKeyexp | aesSubbytes | aesShiftrows | aesMixcols | aesRound | aesEnc | desKeysched | desIp | desRound | desFp
  | desEnc => simp
  | _ => exact absurd h Bool.false_ne_true

end Sys2Proof

namespace Sys2Proof.Machine

open Sys2Proof.Claims

/-! ## Steps and responses -/

/-- Settles O1: the case of a step in which the packet taken decodes. -/
theorem stepRunsDecodedCommand : Obligations.StepRunsDecodedCommand :=
  fun _ _ _ _ hr hc hd => step_executes hr hc hd

/-- The state t is s with its input side as it was and one more response, with a result only under status 0
(20_memory.md R65, R68). -/
structure State.RespondedBy (s t : State) : Prop where
  input : s.SameInput t
  response : ∃ (status : Byte) (result : List Byte), t.rsp = s.rsp ++ [status :: result] ∧ status.toNat ≤ 7 ∧
    (status ≠ 0 → result = [])

theorem State.respondedBy_refuseFaulted (s : State) : s.RespondedBy s.refuseFaulted :=
  ⟨⟨rfl, rfl, rfl⟩, _, [], rfl, by decide, fun _ => rfl⟩

theorem State.respondedBy_takeFault (s : State) (code : FaultCode) (op : Byte) : s.RespondedBy (s.takeFault code op) :=
  ⟨⟨rfl, rfl, rfl⟩, _, [], rfl, (FaultCode.toByte_pos code).2, fun _ => rfl⟩

theorem State.respondedBy_rejectPacket (s : State) (pkt : Packet) (code : FaultCode) :
    s.RespondedBy (s.rejectPacket pkt code) := by
  rcases s.rejectPacket_cases pkt code with ⟨-, h⟩ | ⟨-, h⟩ <;> rw [h]
  · exact s.respondedBy_refuseFaulted
  · exact s.respondedBy_takeFault code _

/-- A command that completes gives one success response and leaves the input side alone. -/
theorem Completes.respondedBy {s t : State} {i : Instr} (h : Completes s i t) : s.RespondedBy t := by
  cases h with
  | _ => exact ⟨⟨rfl, rfl, rfl⟩, 0, _, rfl, by decide, fun h => absurd rfl h⟩

theorem exec_respondedBy {i : Instr} {s t : State} (h : exec i s = .next t) : s.RespondedBy t := by
  rcases exec_cases h with ⟨-, rfl⟩ | ⟨-, code, -, rfl⟩ | hdone
  · exact s.respondedBy_refuseFaulted
  · exact s.respondedBy_takeFault code _
  · exact hdone.respondedBy

/-- Settles O12: the packet taken is executed or rejected, and each of the two gives one response. -/
theorem oneResponsePerPacket : Obligations.OneResponsePerPacket := by
  intro s t pkt rest hr hc h
  have hresp : State.RespondedBy { s with cmd := rest } t := by
    cases hd : decode pkt with
    | ok i => exact exec_respondedBy (step_executes hr hc hd ▸ h)
    | error code =>
      rw [step_rejects hr hc hd] at h
      cases h
      exact State.respondedBy_rejectPacket _ pkt code
  obtain ⟨⟨hcmd, hpart, hpin⟩, hrsp⟩ := hresp
  exact ⟨hcmd.symm, hpart.symm, hpin.symm.trans hr, hrsp⟩

/-! ## The trace stream -/

/-- A command that completes adds packets of records to TRC, and none when it is a command of R79. -/
theorem Completes.trc {s t : State} {i : Instr} (h : Completes s i t) :
    ∃ ts : List TraceRecord, t.trc = s.trc ++ ts.map TraceRecord.packet ∧ (ts ≠ [] → i.mayTrace = true) := by
  cases h with
  | sysReset | onlyAnswers | bvLdt | aesLdblk | aesLdkey | desLdblk | desLdkey =>
    exact ⟨[], (List.append_nil _).symm, fun h => absurd rfl h⟩
  | aesTransform x ts hi => exact ⟨ts, rfl, fun _ => Instr.mayTrace_of_transformsAesState hi⟩
  | aesKeyexp | aesRound | aesEnc | desKeysched | desIp | desRound | desFp | desEnc | desF => exact ⟨_, rfl, fun _ => rfl⟩

/-- In FAULTED mode no command adds to TRC: only SYS.RESET and SYS.RDSTAT execute (60_exceptions.md R286). -/
theorem exec_trc_of_faulted {i : Instr} {s t : State} (hs : s.MODE = .faulted) (h : exec i s = .next t) :
    t.trc = s.trc := by
  by_cases h1 : i = .sysReset
  · subst h1
    cases h
    rfl
  by_cases h2 : i = .sysRdstat
  · subst h2
    cases h
    rfl
  obtain ⟨checks, done, hexec⟩ := exec_command i s h1 h2
  rw [hexec, command_refused hs] at h
  cases h
  rfl

/-- A command that completes ends in the mode it started in, or in RUN mode. -/
theorem Completes.mode {s t : State} {i : Instr} (h : Completes s i t) : t.MODE = s.MODE ∨ t.MODE = .run := by
  cases h with
  | sysReset => exact .inr rfl
  | _ => exact .inl rfl

/-- A command after which the mode is FAULTED has added nothing to TRC (20_memory.md R79; 60_exceptions.md R283). -/
theorem exec_trc_of_ends_faulted {i : Instr} {s t : State} (h : exec i s = .next t) (ht : t.MODE = .faulted) :
    t.trc = s.trc := by
  rcases exec_cases h with ⟨-, rfl⟩ | ⟨-, code, -, rfl⟩ | hdone
  · rfl
  · rfl
  · rcases hdone.mode with hm | hm
    · exact exec_trc_of_faulted (hm ▸ ht) h
    · exact nomatch ht.symm.trans hm

/-- Settles O13: a command that ends in FAULTED mode adds nothing, and one that ends in RUN mode has completed. -/
theorem traceOnlyGrowsByRecords : Obligations.TraceOnlyGrowsByRecords := by
  intro i s t h
  by_cases ht : t.MODE = .faulted
  · exact ⟨[], by simp [exec_trc_of_ends_faulted h ht], fun _ => rfl, fun _ _ _ => rfl⟩
  rcases exec_cases h with ⟨hm, rfl⟩ | ⟨-, code, -, rfl⟩ | hdone
  · exact absurd hm ht
  · exact absurd rfl ht
  · obtain ⟨ts, htrc, hmay⟩ := hdone.trc
    refine ⟨ts, htrc, fun hf => absurd hf ht, fun hlist hark hf => ?_⟩
    by_contra hne
    rcases Instr.mem_of_mayTrace (hmay hne) with hmem | ⟨k, hk⟩ | ⟨k, hk⟩
    · exact hlist hmem
    · exact hark k hk
    · exact hf k hk

/-! ## Whole encryptions -/

/-- Settles O40: round 0 emits two packets and rounds 1 to 10 five each. -/
theorem aesEncTraceCounts : Obligations.AesEncTraceCounts := by
  intro s t hm hv hk hr h
  have hstart : s.ARND.toNat = 0 := by simp [hr]
  have hdone : exec .aesEnc s = .next ((State.runRounds 11 s).ok (State.runRounds 11 s).S.bytes) :=
    command_done hm (by simp [hv, hk, hr])
  obtain rfl := Host.Outcome.next.inj (hdone.symm.trans h)
  rw [State.runRounds_eq 11 (by omega), hstart]
  refine ⟨_, rfl, ?_, aesRounds_roundNumbers s.W 11 (by omega) s.S, ?_⟩
  · rw [List.length_map, aesRounds, List.length_append, aesRoundRecords_length s.W (by omega),
      aesRounds_length s.W 10 (by omega) (by omega)]
    rfl
  · rw [List.getLast?_map, aesRounds_getLast s.W 10 rfl]
    rfl

/-- The trace of DES.ENC from the start: the initial permutation, 16 rounds, the final step (43_des.md R236). -/
theorem exec_desEnc_trc {s t : State} (hm : s.MODE = .run) (hv : s.DBV = true) (hk : s.DKSV = true) (hr : s.DRND = 0)
    (h : exec .desEnc s = .next t) :
    ∃ (start : BitVec 32 × BitVec 32) (X pre : BitVec 64) (l r : BitVec 32), t.trc = s.trc ++
      (.ip s.DB X :: (feistelTrace s.K 16 1 start ++ [.swap l r pre, .fp pre t.DB, .dfinal t.DB])).map
        TraceRecord.packet := by
  have hdone : exec .desEnc s = .next ((State.runDrounds 16 s.initialPermutation).doDfinal.ok
      (pack (State.runDrounds 16 s.initialPermutation).doDfinal.DB)) := by
    refine (command_done hm (by simp [hv, hk, hr])).trans ?_
    simp [hr, Config.desRounds]
  obtain rfl := Host.Outcome.next.inj (hdone.symm.trans h)
  have hone : s.initialPermutation.DRND.toNat = 1 := by simp [State.initialPermutation_eq]
  rw [State.finishDes_eq 16 (by omega), hone, State.initialPermutation_eq]
  exact ⟨_, _, _, _, _, List.append_assoc _ _ _⟩

/-- Settles O53: one packet of the initial permutation, 13 for each of the 16 rounds, three of the final step. -/
theorem desEncTraceCounts : Obligations.DesEncTraceCounts := by
  intro s t hm hv hk hr h
  obtain ⟨start, X, pre, l, r, htrc⟩ := exec_desEnc_trc hm hv hk hr h
  refine ⟨_, htrc, ?_, ?_, ?_⟩
  · simp [feistelTrace_length]
  · have hip : roundNumbers 0x19 ([.ip s.DB X].map TraceRecord.packet) = [] :=
      roundNumbers_other (by simp [TraceRecord.tag])
    have hfinal : roundNumbers 0x19 ([.swap l r pre, .fp pre t.DB, .dfinal t.DB].map TraceRecord.packet) = [] :=
      roundNumbers_other (by simp [TraceRecord.tag])
    change roundNumbers 0x19 _ = _
    rw [← List.singleton_append, List.map_append, List.map_append, roundNumbers_append, roundNumbers_append, hip, hfinal,
      feistelTrace_roundNumbers s.K 16 (by omega)]
    rfl
  · simp [List.getLast?_append, List.getLast?_cons, TraceRecord.packet, TraceRecord.tag, TraceRecord.fields]

/-! ## The records of the trace -/

/-- Settles O14, kind by kind. -/
theorem traceRecordTagsAndLengths : Obligations.TraceRecordTagsAndLengths := by
  intro t
  refine ⟨t.tag, t.fields, rfl, ?_⟩
  cases t with
  | _ => simp [TraceRecord.tag, TraceRecord.fields, numericField, ceil8]

/-- A packed bit string spells its positions, the unused low bits of its last byte 0 (20_memory.md R71). -/
theorem pack_spellsBits {n : Nat} (X : BitVec n) : SpellsBits (pack X) n fun p => X.getMsbD p := by
  refine ⟨pack_length X, fun p hp => ?_⟩
  rw [pack_length] at hp
  rw [bitOf, pack_getMsbD X _ _ (by omega) (by omega), Nat.div_add_mod]
  split
  · rfl
  · exact BitVec.getMsbD_of_ge _ _ (by omega)

/-- Settles O57: the packets are written out kind by kind; what their bytes spell is a law of the operand forms. -/
theorem traceRecordFieldsInOrder : Obligations.TraceRecordFieldsInOrder := by
  refine ⟨fun t => ?_, fun _ => rfl, fun a => ⟨a.bytes_length, a.bytes_getD⟩, fun _ => pack_spellsBits⟩
  cases t with
  | _ => rfl

/-! ## The ports -/

theorem State.sendByte_last {s : State} (hr : s.rstN = true) (b : Byte) :
    s.sendByte b true = { s with cmd := s.cmd ++ [s.cmdPart ++ [b]], cmdPart := [] } := by
  simp [State.sendByte, hr]

theorem State.sendByte_more {s : State} (hr : s.rstN = true) (b : Byte) :
    s.sendByte b false = { s with cmdPart := s.cmdPart ++ [b] } := by
  simp [State.sendByte, hr]

/-- The bytes of a packet complete the part already received to one packet on CMD. -/
theorem State.sendBytes_framed {s : State} (hr : s.rstN = true) (pkt : Packet) (hp : pkt ≠ []) :
    s.sendBytes (framed pkt) = { s with cmd := s.cmd ++ [s.cmdPart ++ pkt], cmdPart := [] } := by
  fun_induction framed pkt generalizing s with
  | case1 => exact absurd rfl hp
  | case2 b => exact State.sendByte_last hr b
  | case3 b c rest ih =>
    have hnext := ih (s := s.sendByte b false) (by rw [State.sendByte_more hr]; exact hr) (List.cons_ne_nil c rest)
    rw [State.sendByte_more hr] at hnext
    rw [State.sendBytes, List.foldl_cons, State.sendByte_more hr]
    simpa [State.sendBytes] using hnext

/-- Settles O23: bytes sent gather in `cmdPart` until the last one; bytes taken come off the packet at the head. -/
theorem packetsCrossThePortsWhole : Obligations.PacketsCrossThePortsWhole := by
  refine ⟨fun s pkt hr hpart hp => ?_, fun s b c bs rest h => ?_, fun s b rest h => ?_, fun s b c bs rest h => ?_,
    fun s b rest h => ?_⟩
  · simp [State.sendBytes_framed hr pkt hp, hpart]
  · simp [State.takeRspByte, takeByte, h]
  · simp [State.takeRspByte, takeByte, h]
  · simp [State.takeTrcByte, takeByte, h]
  · simp [State.takeTrcByte, takeByte, h]

end Sys2Proof.Machine
end
section
/-!
SUPPORT. What the decoder can answer, said once: a packet is the packet of a well-formed command, or has the opcode byte
of one and a length that its format does not allow, or has an illegal opcode byte (30_encoding.md R110 to R115). And
what the assembler makes of a line (R116, R117).
-/

namespace Sys2Proof

/-- The opcode bytes in no row of the opcode map (30_encoding.md R115). -/
def UnlistedOpcode (op : Byte) : Prop :=
  (0x03 ≤ op.toNat ∧ op.toNat ≤ 0x0F) ∨ (0x15 ≤ op.toNat ∧ op.toNat ≤ 0x1F) ∨
    (0x24 ≤ op.toNat ∧ op.toNat ≤ 0x2F) ∨ (0x3C ≤ op.toNat ∧ op.toNat ≤ 0x3F) ∨
    (0x4C ≤ op.toNat ∧ op.toNat ≤ 0xFF)

/-- `Reads op args r`: r is an answer that 30_encoding.md R114 allows for the packet `op :: args`. `decode_reads` ties
this to the decoder. -/
inductive Reads (op : Byte) (args : List Byte) : Except FaultCode Instr → Prop
  | command (i : Instr) (hop : i.opcode.toNat = op.toNat) (hargs : i.operandBytes = args) (hwf : i.wf = true) :
      Reads op args (.ok i)
  | formatFault (i : Instr) (hop : i.opcode.toNat = op.toNat) : Reads op args (.error .eFormat)
  | illegal (h : UnlistedOpcode op) : Reads op args (.error .eOpcode)

theorem Instr.opcode_listed (i : Instr) : ¬ UnlistedOpcode i.opcode := by
  cases i with
  | _ => simp [UnlistedOpcode, Instr.opcode]

/-! ## Each format, for a command of that format (30_encoding.md R111) -/

section

variable {op : Byte} (args : List Byte)

theorem formatF0_reads {i : Instr} (hop : i.opcode.toNat = op.toNat) (hargs : i.operandBytes = [])
    (hwf : i.wf = true) : Reads op args (formatF0 i args) := by
  unfold formatF0
  split
  · exact .command i hop hargs hwf
  · exact .formatFault i hop

theorem formatF1_reads {mk : Byte → Instr} (hop : ∀ a, (mk a).opcode.toNat = op.toNat)
    (hargs : ∀ a, (mk a).operandBytes = [a]) (hwf : ∀ a, (mk a).wf = true) : Reads op args (formatF1 mk args) := by
  unfold formatF1
  split
  · exact .command _ (hop _) (hargs _) (hwf _)
  · exact .formatFault _ (hop 0)

theorem formatF2_reads {mk : Byte → Byte → Instr} (hop : ∀ a b, (mk a b).opcode.toNat = op.toNat)
    (hargs : ∀ a b, (mk a b).operandBytes = [a, b]) (hwf : ∀ a b, (mk a b).wf = true) :
    Reads op args (formatF2 mk args) := by
  unfold formatF2
  split
  · exact .command _ (hop _ _) (hargs _ _) (hwf _ _)
  · exact .formatFault _ (hop 0 0)

theorem formatF4_reads {mk : Byte → Byte → Byte → Byte → Instr}
    (hop : ∀ c0 c1 c2 c3, (mk c0 c1 c2 c3).opcode.toNat = op.toNat)
    (hargs : ∀ c0 c1 c2 c3, (mk c0 c1 c2 c3).operandBytes = [c0, c1, c2, c3])
    (hwf : ∀ c0 c1 c2 c3, (mk c0 c1 c2 c3).wf = true) : Reads op args (formatF4 mk args) := by
  unfold formatF4
  split
  · exact .command _ (hop _ _ _ _) (hargs _ _ _ _) (hwf _ _ _ _)
  · exact .formatFault _ (hop 0 0 0 0)

theorem formatFD_reads {mk : List Byte → Instr} (hop : ∀ data, (mk data).opcode.toNat = op.toNat)
    (hargs : ∀ data, (mk data).operandBytes = data) (hwf : ∀ data, (mk data).wf = true) :
    Reads op args (formatFD mk args) :=
  .command _ (hop _) (hargs _) (hwf _)

theorem formatFT_reads {mk : List Byte → Instr} (hop : ∀ entries, (mk entries).opcode.toNat = op.toNat)
    (hargs : ∀ entries, (mk entries).operandBytes = entries)
    (hwf : ∀ entries, 1 ≤ entries.length ∧ entries.length ≤ Config.bvMaxBits → (mk entries).wf = true) :
    Reads op args (formatFT mk args) := by
  unfold formatFT
  split
  next hlen => exact .command _ (hop _) (hargs _) (hwf _ hlen)
  next => exact .formatFault _ (hop [])

theorem formatFP_reads {mk : Byte → Byte → List Byte → Instr}
    (hop : ∀ sel nbits data, (mk sel nbits data).opcode.toNat = op.toNat)
    (hargs : ∀ sel nbits data, (mk sel nbits data).operandBytes = sel :: nbits :: data)
    (hwf : ∀ sel nbits data, data.length = ceil8 nbits.toNat → (mk sel nbits data).wf = true) :
    Reads op args (formatFP mk args) := by
  unfold formatFP
  split
  · split
    next hlen => exact .command _ (hop _ _ _) (hargs _ _ _) (hwf _ _ _ hlen)
    next => exact .formatFault _ (hop 0 0 [])
  · exact .formatFault _ (hop 0 0 [])

/-- The bytes are cut where the first bit string ends, so both parts have the length their bit string needs. -/
theorem formatFX_reads {mk : Byte → Byte → List Byte → List Byte → Instr}
    (hop : ∀ na nb A B, (mk na nb A B).opcode.toNat = op.toNat)
    (hargs : ∀ na nb A B, (mk na nb A B).operandBytes = na :: nb :: (A ++ B))
    (hwf : ∀ na nb A B, A.length = ceil8 na.toNat → B.length = ceil8 nb.toNat → (mk na nb A B).wf = true) :
    Reads op args (formatFX mk args) := by
  unfold formatFX
  split
  next na nb data =>
    split
    next hlen =>
      refine .command _ (hop _ _ _ _) ?_ (hwf _ _ _ _ ?_ ?_)
      · rw [hargs, List.take_append_drop]
      · rw [List.length_take]
        omega
      · rw [List.length_drop]
        omega
    next => exact .formatFault _ (hop 0 0 [] [])
  next => exact .formatFault _ (hop 0 0 [] [])

theorem formatFR_reads {mk : Byte → Byte → List Byte → Instr}
    (hop : ∀ nbits cnt data, (mk nbits cnt data).opcode.toNat = op.toNat)
    (hargs : ∀ nbits cnt data, (mk nbits cnt data).operandBytes = nbits :: cnt :: data)
    (hwf : ∀ nbits cnt data, data.length = ceil8 nbits.toNat → (mk nbits cnt data).wf = true) :
    Reads op args (formatFR mk args) := by
  unfold formatFR
  split
  · split
    next hlen => exact .command _ (hop _ _ _) (hargs _ _ _) (hwf _ _ _ hlen)
    next => exact .formatFault _ (hop 0 0 [])
  · exact .formatFault _ (hop 0 0 [])

end

/-! ## The opcode map (30_encoding.md R113) -/

/-- Every answer of the decoder is one that R114 allows: the rows of the opcode map, in its order, grouped by their
formats. -/
theorem decode_reads (op : Byte) (args : List Byte) : Reads op args (decode (op :: args)) := by
  change Reads op args (decodeOperands op args)
  unfold decodeOperands
  split
  -- format F0
  case h_1 hop | h_2 hop | h_3 hop | h_15 hop | h_16 hop | h_17 hop | h_18 hop | h_20 hop | h_21 hop | h_22 hop
      | h_27 hop | h_28 hop | h_29 hop | h_30 hop | h_31 hop | h_32 hop | h_33 hop =>
    exact formatF0_reads args hop.symm rfl rfl
  -- format F1
  case h_5 hop | h_6 hop | h_19 hop | h_23 hop | h_24 hop | h_34 hop | h_35 hop =>
    exact formatF1_reads args (fun _ => hop.symm) (fun _ => rfl) (fun _ => rfl)
  -- format F2
  case h_4 hop | h_7 hop | h_36 hop =>
    exact formatF2_reads args (fun _ _ => hop.symm) (fun _ _ => rfl) (fun _ _ => rfl)
  -- format F4, GF.MIXCOL
  case h_8 hop => exact formatF4_reads args (fun _ _ _ _ => hop.symm) (fun _ _ _ _ => rfl) (fun _ _ _ _ => rfl)
  -- format FT, BV.LDT
  case h_9 hop => exact formatFT_reads args (fun _ => hop.symm) (fun _ => rfl) (fun _ h => decide_eq_true h)
  -- format FP, BV.PERM
  case h_10 hop =>
    exact formatFP_reads args (fun _ _ _ => hop.symm) (fun _ _ _ => rfl) (fun _ _ _ h => beq_iff_eq.mpr h)
  -- format FX, BV.XOR
  case h_11 hop =>
    exact formatFX_reads args (fun _ _ _ _ => hop.symm) (fun _ _ _ _ => rfl)
      (fun _ _ _ _ hA hB => by simp [Instr.wf, hA, hB])
  -- format FR, BV.ROL
  case h_12 hop =>
    exact formatFR_reads args (fun _ _ _ => hop.symm) (fun _ _ _ => rfl) (fun _ _ _ h => beq_iff_eq.mpr h)
  -- format FD
  case h_13 hop | h_14 hop | h_25 hop | h_26 hop =>
    exact formatFD_reads args (fun _ => hop.symm) (fun _ => rfl) (fun _ => rfl)
  -- no row
  case h_37 =>
    refine .illegal ?_
    unfold UnlistedOpcode
    simp only [imp_false] at *
    omega

/-- A packet that decodes is the packet of the well-formed command it decodes to. -/
theorem encode_of_decode {pkt : Packet} {i : Instr} (h : decode pkt = .ok i) : i.wf = true ∧ encode i = pkt := by
  cases pkt with
  | nil => cases h
  | cons op args =>
    have hr := decode_reads op args
    rw [h] at hr
    obtain ⟨_, hop, hargs, hwf⟩ := hr
    exact ⟨hwf, by rw [encode, BitVec.eq_of_toNat_eq hop, hargs]⟩

/-- The round trip, for the four formats that bound the lengths of their runs of bytes and for the others. -/
theorem decode_encode (i : Instr) (h : i.wf = true) : decode (encode i) = .ok i := by
  cases i with
  | bvLdt entries => exact Laws.DecodeEncode.bvLdt entries h
  | bvPerm sel nbits data => exact Laws.DecodeEncode.bvPerm sel nbits data h
  | bvXor na nb A B => exact Laws.DecodeEncode.bvXor na nb A B h
  | bvRol nbits cnt data => exact Laws.DecodeEncode.bvRol nbits cnt data h
  | _ => rfl

/-- The decoder answers `E_OPCODE` exactly for the opcode bytes in no row of the opcode map. -/
theorem decode_eq_eOpcode_iff (op : Byte) (args : List Byte) :
    decode (op :: args) = .error .eOpcode ↔ UnlistedOpcode op := by
  constructor
  · intro h
    have hr := decode_reads op args
    rw [h] at hr
    cases hr with
    | illegal hu => exact hu
  · intro hu
    generalize hd : decode (op :: args) = r
    cases hd ▸ decode_reads op args with
    | command i hop | formatFault i hop =>
      exact absurd (BitVec.eq_of_toNat_eq hop ▸ hu) i.opcode_listed
    | illegal => rfl

/-! ## The assembler -/

/-- A line that begins with a mnemonic is one packet: its opcode byte and the operand bytes as written
(30_encoding.md R116). -/
theorem assembleLine_command {line name : List Char} {ops : List (List Byte)} {op : Byte}
    (hline : parseLine line = some (name, ops)) (hop : mnemonicOpcode name = some op) :
    assembleLine line = some [op :: ops.flatten] := by
  have hname : name ≠ [] := by
    rintro rfl
    exact nomatch (show mnemonicOpcode [] = none by decide +kernel).symm.trans hop
  simp [assembleLine, hline, hname, hop]

/-- A line that begins with the name of a pseudo-instruction is the packets of its expansion (30_encoding.md R117). -/
theorem assembleLine_pseudo {line name : List Char} {ops : List (List Byte)} {p : Pseudo}
    (hline : parseLine line = some (name, ops)) (hname : name ≠ []) (hop : mnemonicOpcode name = none)
    (hp : pseudoOf name ops = some p) : assembleLine line = some (p.expand.map encode) := by
  simp [assembleLine, hline, hname, hop, hp]

end Sys2Proof
end
section
/-!
SUPPORT. Stepping against running (30_encoding.md R117): the rounds neither read nor write RSP, a run of rounds stops by
itself, and what commands executed one after another leave.
-/

namespace Sys2Proof.Machine

open Sys2Proof.Claims

/-! ## Commands one after another, and the responses -/

theorem execAll_cons {i : Instr} {s t : State} (h : exec i s = .next t) (rest : List Instr) :
    execAll (i :: rest) s = execAll rest t := by
  simp [execAll, h]

theorem execAll_append {xs : List Instr} {s t : State} (h : execAll xs s = some t) (ys : List Instr) :
    execAll (xs ++ ys) s = execAll ys t := by
  induction xs generalizing s with
  | nil =>
    cases h
    rfl
  | cons i xs ih =>
    simp only [execAll, List.cons_append] at h ⊢
    split at h
    · exact ih h
    · cases h
    · cases h

/-- The state with other packets on RSP. -/
def State.withRsp (s : State) (out : List Packet) : State := { s with rsp := out }

section

variable (s : State) (out : List Packet)

@[simp] theorem State.withRsp_rsp : (s.withRsp out).rsp = out := rfl

@[simp] theorem State.withRsp_ARND : (s.withRsp out).ARND = s.ARND := rfl

@[simp] theorem State.withRsp_DRND : (s.withRsp out).DRND = s.DRND := rfl

@[simp] theorem State.withRsp_self : s.withRsp s.rsp = s := rfl

@[simp] theorem State.withRsp_withRsp (out' : List Packet) : (s.withRsp out).withRsp out' = s.withRsp out' := rfl

/-- The form in which the statements replace the responses of the state that a command left. -/
theorem State.withRsp_update (out' : List Packet) : { s.withRsp out with rsp := out' } = s.withRsp out' := rfl

end

/-- The bare responses of n + 1 commands are that of the first and those of the others. -/
theorem bareResponses_succ (out : List Packet) (n : Nat) :
    out ++ List.replicate (n + 1) [0x00] = (out ++ [[0x00]]) ++ List.replicate n [0x00] := by
  simp [List.replicate_succ]

/-! ## AES -/

/-- RUN mode, with a block and a key schedule (42_aes.md R200, R201). -/
structure State.AesReady (s : State) : Prop where
  mode : s.MODE = .run
  block : s.ASV = true
  schedule : s.AKSV = true

theorem State.AesReady.withRsp {s : State} (h : s.AesReady) (out : List Packet) : (s.withRsp out).AesReady :=
  ⟨h.mode, h.block, h.schedule⟩

theorem State.AesReady.doRound {s : State} (h : s.AesReady) : s.doRound.AesReady := by
  obtain ⟨x, ts, hd⟩ := s.doRound_shape
  rw [hd]
  exact ⟨h.mode, h.block, h.schedule⟩

@[simp] theorem State.doRound_rsp (s : State) : s.doRound.rsp = s.rsp := by
  obtain ⟨x, ts, hd⟩ := s.doRound_shape
  rw [hd]

theorem State.doRound_ARND {s : State} (hr : s.ARND.toNat ≤ 10) : s.doRound.ARND.toNat = s.ARND.toNat + 1 := by
  rw [State.doRound_eq hr]
  simp
  omega

theorem State.doRound_withRsp {s : State} (hr : s.ARND.toNat ≤ 10) (out : List Packet) :
    (s.withRsp out).doRound = s.doRound.withRsp out := by
  rw [State.doRound_eq hr, State.doRound_eq (s := s.withRsp out) hr]
  rfl

theorem State.runRounds_stop {s : State} (hr : 11 ≤ s.ARND.toNat) (n : Nat) : State.runRounds n s = s := by
  cases n with
  | zero => rfl
  | succ n => exact if_neg (Nat.not_le.mpr hr)

/-- Once the rounds that remain are allowed, allowing one more changes nothing: `while ARND <= 10` has ended. -/
theorem State.runRounds_enough (n : Nat) {s : State} (hn : 11 ≤ s.ARND.toNat + n) :
    State.runRounds (n + 1) s = State.runRounds n s := by
  induction n generalizing s with
  | zero => exact State.runRounds_stop hn 1
  | succ n ih =>
    by_cases hr : s.ARND.toNat ≤ 10
    · rw [State.runRounds_succ hr, State.runRounds_succ hr, ih (by rw [State.doRound_ARND hr]; omega)]
    · have hstop : 11 ≤ s.ARND.toNat := by omega
      rw [State.runRounds_stop hstop, State.runRounds_stop hstop]

@[simp] theorem State.runRounds_withRsp (n : Nat) (s : State) (out : List Packet) :
    State.runRounds n (s.withRsp out) = (State.runRounds n s).withRsp out := by
  induction n generalizing s with
  | zero => rfl
  | succ n ih =>
    by_cases hr : s.ARND.toNat ≤ 10
    · rw [State.runRounds_succ hr, State.runRounds_succ (s := s.withRsp out) hr, State.doRound_withRsp hr, ih]
    · have hstop : 11 ≤ s.ARND.toNat := by omega
      rw [State.runRounds_stop hstop, State.runRounds_stop (s := s.withRsp out) hstop]

@[simp] theorem State.runRounds_rsp (n : Nat) (s : State) : (State.runRounds n s).rsp = s.rsp := by
  obtain ⟨x, r, ts, h⟩ := State.runRounds_shape n s
  rw [h]

theorem State.AesReady.exec_aesRound {s : State} (h : s.AesReady) (hr : s.ARND.toNat ≤ 10) :
    exec .aesRound s = .next (s.doRound.withRsp (s.rsp ++ [[0x00]])) := by
  rw [← s.doRound_rsp]
  exact command_done h.mode (by simp [h.block, h.schedule, hr, Config.aesRounds])

theorem State.AesReady.exec_aesEnc {s : State} (h : s.AesReady) (hr : s.ARND.toNat ≤ 10) :
    exec .aesEnc s =
      .next ((State.runRounds 11 s).withRsp (s.rsp ++ [0x00 :: (State.runRounds 11 s).S.bytes])) := by
  rw [← State.runRounds_rsp 11 s]
  exact command_done h.mode (by simp [h.block, h.schedule, hr, Config.aesRounds])

/-- AES.ROUND n times is n rounds, with n bare responses. -/
theorem State.AesReady.execAll_aesRound (n : Nat) {s : State} (h : s.AesReady) (hn : s.ARND.toNat + n ≤ 11) :
    execAll (List.replicate n .aesRound) s =
      some ((State.runRounds n s).withRsp (s.rsp ++ List.replicate n [0x00])) := by
  induction n generalizing s with
  | zero => simp [execAll, State.runRounds]
  | succ n ih =>
    have hr : s.ARND.toNat ≤ 10 := by omega
    have hnext := State.doRound_ARND hr
    rw [List.replicate_succ, execAll_cons (h.exec_aesRound hr),
      ih (h.doRound.withRsp (s.rsp ++ [[0x00]])) (by rw [State.withRsp_ARND]; omega), State.runRounds_withRsp,
      State.runRounds_succ hr, bareResponses_succ, State.withRsp_rsp, State.withRsp_withRsp]

/-! ## DES -/

/-- RUN mode, with a block and round keys (43_des.md R234, R236). -/
structure State.DesReady (s : State) : Prop where
  mode : s.MODE = .run
  block : s.DBV = true
  schedule : s.DKSV = true

theorem State.DesReady.withRsp {s : State} (h : s.DesReady) (out : List Packet) : (s.withRsp out).DesReady :=
  ⟨h.mode, h.block, h.schedule⟩

theorem State.DesReady.initialPermutation {s : State} (h : s.DesReady) : s.initialPermutation.DesReady :=
  ⟨h.mode, h.block, h.schedule⟩

theorem State.DesReady.doDround {s : State} (h : s.DesReady) : s.doDround.DesReady :=
  ⟨h.mode, h.block, h.schedule⟩

theorem State.DesReady.runDrounds {s : State} (h : s.DesReady) (n : Nat) : (State.runDrounds n s).DesReady := by
  obtain ⟨l, r, d, ts, hd⟩ := State.runDrounds_shape n s
  rw [hd]
  exact ⟨h.mode, h.block, h.schedule⟩

theorem State.doDround_DRND {s : State} (hr : s.DRND.toNat ≤ 16) : s.doDround.DRND.toNat = s.DRND.toNat + 1 := by
  rw [State.doDround_eq]
  simp
  omega

theorem State.runDrounds_stop {s : State} (hr : 17 ≤ s.DRND.toNat) (n : Nat) : State.runDrounds n s = s := by
  cases n with
  | zero => rfl
  | succ n => exact if_neg (Nat.not_le.mpr hr)

/-- Once the rounds that remain are allowed, allowing one more changes nothing: `while DRND <= 16` has ended. -/
theorem State.runDrounds_enough (n : Nat) {s : State} (hn : 17 ≤ s.DRND.toNat + n) :
    State.runDrounds (n + 1) s = State.runDrounds n s := by
  induction n generalizing s with
  | zero => exact State.runDrounds_stop hn 1
  | succ n ih =>
    by_cases hr : s.DRND.toNat ≤ 16
    · rw [State.runDrounds_succ hr, State.runDrounds_succ hr, ih (by rw [State.doDround_DRND hr]; omega)]
    · have hstop : 17 ≤ s.DRND.toNat := by omega
      rw [State.runDrounds_stop hstop, State.runDrounds_stop hstop]

@[simp] theorem State.runDrounds_withRsp (n : Nat) (s : State) (out : List Packet) :
    State.runDrounds n (s.withRsp out) = (State.runDrounds n s).withRsp out := by
  induction n generalizing s with
  | zero => rfl
  | succ n ih =>
    by_cases hr : s.DRND.toNat ≤ 16
    · rw [State.runDrounds_succ hr, State.runDrounds_succ (s := s.withRsp out) hr]
      exact ih s.doDround
    · have hstop : 17 ≤ s.DRND.toNat := by omega
      rw [State.runDrounds_stop hstop, State.runDrounds_stop (s := s.withRsp out) hstop]

@[simp] theorem State.runDrounds_rsp (n : Nat) (s : State) : (State.runDrounds n s).rsp = s.rsp := by
  obtain ⟨l, r, d, ts, h⟩ := State.runDrounds_shape n s
  rw [h]

theorem State.doDfinal_withRsp (s : State) (out : List Packet) :
    (s.withRsp out).doDfinal = s.doDfinal.withRsp out := rfl

theorem State.DesReady.exec_desIp {s : State} (h : s.DesReady) (hr : s.DRND = 0) :
    exec .desIp s = .next (s.initialPermutation.withRsp (s.rsp ++ [[0x00]])) :=
  command_done h.mode (by simp [h.block, hr])

theorem State.DesReady.exec_desRound {s : State} (h : s.DesReady) (h1 : 1 ≤ s.DRND.toNat) (hr : s.DRND.toNat ≤ 16) :
    exec .desRound s = .next (s.doDround.withRsp (s.rsp ++ [[0x00]])) :=
  command_done h.mode (by simp [h.block, h.schedule, h1, hr, Config.desRounds])

theorem State.DesReady.exec_desFp {s : State} (h : s.DesReady) (hr : s.DRND = 17) :
    exec .desFp s = .next (s.doDfinal.withRsp (s.rsp ++ [[0x00]])) :=
  command_done h.mode (by simp [h.block, hr])

/-- DES.ENC is the rounds that remain, from the initial permutation where it is still to come, and the final step. -/
theorem State.DesReady.exec_desEnc {s t : State} (h : s.DesReady) (hr : s.DRND.toNat ≤ 17)
    (ht : (if s.DRND.toNat = 0 then s.initialPermutation else s) = t) :
    exec .desEnc s = .next ((State.runDrounds 16 t).doDfinal.withRsp
      (s.rsp ++ [0x00 :: pack (State.runDrounds 16 t).doDfinal.DB])) := by
  have hrsp : s.rsp = (State.runDrounds 16 t).doDfinal.rsp := by
    change s.rsp = (State.runDrounds 16 t).rsp
    rw [State.runDrounds_rsp, ← ht]
    split <;> rfl
  rw [hrsp, ← ht]
  exact command_done h.mode (by simp [h.block, h.schedule, hr])

/-- DES.ROUND n times is n rounds, with n bare responses. -/
theorem State.DesReady.execAll_desRound (n : Nat) {s : State} (h : s.DesReady) (h1 : 1 ≤ s.DRND.toNat)
    (hn : s.DRND.toNat + n ≤ 17) :
    execAll (List.replicate n .desRound) s =
      some ((State.runDrounds n s).withRsp (s.rsp ++ List.replicate n [0x00])) := by
  induction n generalizing s with
  | zero => simp [execAll, State.runDrounds]
  | succ n ih =>
    have hr : s.DRND.toNat ≤ 16 := by omega
    have hnext := State.doDround_DRND hr
    rw [List.replicate_succ, execAll_cons (h.exec_desRound h1 hr),
      ih (h.doDround.withRsp (s.rsp ++ [[0x00]])) (by rw [State.withRsp_DRND]; omega)
        (by rw [State.withRsp_DRND]; omega),
      State.runDrounds_withRsp, State.runDrounds_succ hr, bareResponses_succ, State.withRsp_rsp, State.withRsp_withRsp]

/-- The commands of DES.STEPALL, from `DRND` = 0, are the initial permutation, 16 rounds and the final step. -/
theorem State.DesReady.execAll_desStepall {s : State} (h : s.DesReady) (hr : s.DRND = 0) :
    execAll Pseudo.desStepall.expand s = some ((State.runDrounds 16 s.initialPermutation).doDfinal.withRsp
      (s.rsp ++ List.replicate 18 [0x00])) := by
  have hstart := h.initialPermutation.withRsp (s.rsp ++ [[0x00]])
  have hrounds := hstart.execAll_desRound 16 (Nat.le_refl 1) (Nat.le_refl 17)
  rw [State.runDrounds_withRsp, State.withRsp_withRsp, State.withRsp_rsp, ← bareResponses_succ] at hrounds
  have hone : s.initialPermutation.DRND.toNat = 1 := rfl
  have hend : (State.runDrounds 16 s.initialPermutation).DRND = 17 :=
    State.runDrounds_DRND 16 _ (by omega) (by omega)
  have hfp := ((h.initialPermutation.runDrounds 16).withRsp (s.rsp ++ List.replicate 17 [0x00])).exec_desFp
    (by rw [State.withRsp_DRND, hend])
  rw [Pseudo.expand, execAll_cons (h.exec_desIp hr), execAll_append hrounds, execAll_cons hfp, State.doDfinal_withRsp,
    State.withRsp_withRsp, State.withRsp_rsp, List.append_assoc]
  rfl

end Sys2Proof.Machine
end
section
/-!
PROOFS. The family of 30_encoding.md: the packets and the opcode map, the assembler's lines, and stepping against
running.
-/

namespace Sys2Proof.Machine

open Sys2Proof.Claims

/-! ## Packets -/

/-- Settles O19: the round trip from the side of the commands and from the side of the packets. -/
theorem decodeAndEncodeAgree : Obligations.DecodeAndEncodeAgree :=
  ⟨decode_encode, fun _ _ => encode_of_decode⟩

/-- Settles O20: the ranges of R115 are those of `UnlistedOpcode`. -/
theorem illegalOpcodesAreExactlyTheUnlisted : Obligations.IllegalOpcodesAreExactlyTheUnlisted :=
  decode_eq_eOpcode_iff

/-- Settles O21: five packets are those of well-formed commands, one lacks its data byte, one has an opcode byte in
4C..FF. -/
theorem samplePacketsDecode : Obligations.SamplePacketsDecode :=
  ⟨decode_encode .sysRdstat rfl, decode_encode (.gfMixcol 0xdb 0x13 0x53 0x45) rfl,
    decode_encode (.bvXor 3 3 [0xa0] [0xdf]) rfl, decode_encode (.aesAddrk 3) rfl, decode_encode (.desSbox 1 0x18) rfl,
    rfl, (decode_eq_eOpcode_iff 0x99 _).mpr (by simp [UnlistedOpcode])⟩

/-! ## Assembler lines -/

/-- Settles O22: each line is read into its name and operands, and its name found among the mnemonics or the
pseudo-instructions. -/
theorem assemblerLinesGiveTheirPackets : Obligations.AssemblerLinesGiveTheirPackets := by
  refine ⟨?_, ?_, ?_, ?_, ?_, ?_, ?_⟩
  · exact assembleLine_command (name := "AES.ADDRK".toList) (ops := [[0x03]]) (by decide +kernel) (by decide +kernel)
  · exact assembleLine_command (name := "DES.LDKEY".toList) (ops := [[0x41, 0x42, 0x43, 0x44, 0x45, 0x46, 0x47, 0x48]])
      (by decide +kernel) (by decide +kernel)
  · exact assembleLine_command (name := "BV.ROL".toList) (ops := [[0x1c], [0x02], [0xf0, 0xcc, 0xaa, 0xf0]])
      (by decide +kernel) (by decide +kernel)
  · exact assembleLine_pseudo (name := "AES.SIM".toList) (ops := [[0x41], [0x42]]) (p := .aesSim [0x41] [0x42])
      (by decide +kernel) (by decide +kernel) (by decide +kernel) (by decide +kernel)
  · exact assembleLine_pseudo (name := "DES.SIM".toList) (ops := [[0x41], [0x42]]) (p := .desSim [0x41] [0x42])
      (by decide +kernel) (by decide +kernel) (by decide +kernel) (by decide +kernel)
  · exact assembleLine_pseudo (name := "AES.STEPALL".toList) (ops := []) (p := .aesStepall)
      (by decide +kernel) (by decide +kernel) (by decide +kernel) (by decide +kernel)
  · exact assembleLine_pseudo (name := "DES.STEPALL".toList) (ops := []) (p := .desStepall)
      (by decide +kernel) (by decide +kernel) (by decide +kernel) (by decide +kernel)

/-! ## Stepping equals running -/

/-- Settles O39: the rounds of AES.STEPALL are the eleven that AES.ENC runs, and the round of an AES.ROUND is the first
of those that AES.ENC would have run. -/
theorem aesSteppingEqualsRunning : Obligations.AesSteppingEqualsRunning := by
  intro s hm hv hk
  have hready : s.AesReady := ⟨hm, hv, hk⟩
  refine ⟨fun h0 => ?_, fun h9 => ?_⟩
  · have hstart : s.ARND.toNat = 0 := by simp [h0]
    refine ⟨_, hready.exec_aesEnc (by omega), ?_⟩
    rw [Pseudo.expand, hready.execAll_aesRound 11 (by omega), State.withRsp_update]
  · have hr : s.ARND.toNat ≤ 10 := by omega
    have hnext := State.doRound_ARND hr
    have hrun : State.runRounds 11 s.doRound = State.runRounds 11 s := by
      rw [State.runRounds_succ hr, State.runRounds_enough 10 (by omega)]
    have henc := (hready.doRound.withRsp (s.rsp ++ [[0x00]])).exec_aesEnc (hnext.trans_le (by omega))
    refine ⟨_, _, hready.exec_aesEnc hr, rfl, ?_⟩
    rw [execAll_cons (hready.exec_aesRound hr), execAll_cons henc, State.runRounds_withRsp, hrun, State.withRsp_rsp,
      State.withRsp_withRsp, List.append_assoc, State.withRsp_update]
    rfl

/-- Settles O52: DES.STEPALL makes the initial permutation, the sixteen rounds and the final step that DES.ENC makes,
and the round of a DES.ROUND is the first of those that DES.ENC would have run. -/
theorem desSteppingEqualsRunning : Obligations.DesSteppingEqualsRunning := by
  intro s hm hv hk
  have hready : s.DesReady := ⟨hm, hv, hk⟩
  refine ⟨fun h0 => ?_, fun h1 h16 => ?_⟩
  · have hstart : s.DRND.toNat = 0 := by simp [h0]
    refine ⟨_, hready.exec_desEnc (by omega) (if_pos hstart), ?_⟩
    rw [hready.execAll_desStepall h0, State.withRsp_update]
  · have hnext := State.doDround_DRND h16
    have hrun : State.runDrounds 16 s.doDround = State.runDrounds 16 s := by
      rw [State.runDrounds_succ h16, State.runDrounds_enough 15 (by omega)]
    have henc := (hready.doDround.withRsp (s.rsp ++ [[0x00]])).exec_desEnc (hnext.trans_le (by omega))
      (if_neg (hnext.trans_ne (by omega)))
    refine ⟨_, _, hready.exec_desEnc (by omega) (if_neg (by omega)), rfl, ?_⟩
    rw [execAll_cons (hready.exec_desRound h1 h16), execAll_cons henc, State.runDrounds_withRsp, hrun,
      State.doDfinal_withRsp, State.withRsp_rsp, State.withRsp_withRsp, List.append_assoc, State.withRsp_update]
    rfl

end Sys2Proof.Machine
end

section
/-!
SUPPORT. What the decoder makes of the formats F1, F2 and F4 (30_encoding.md R111), and what a command without `require`
lines answers in RUN mode, said once for the statements about single commands.
-/

namespace Sys2Proof.Machine

open Sys2Proof.Claims

theorem formatF1_of_length_ne (mk : Byte → Instr) {args : List Byte} (hlen : args.length ≠ 1) :
    formatF1 mk args = .error .eFormat := by
  unfold formatF1
  split
  · exact absurd rfl hlen
  · rfl

theorem formatF2_of_length_ne (mk : Byte → Byte → Instr) {args : List Byte} (hlen : args.length ≠ 2) :
    formatF2 mk args = .error .eFormat := by
  unfold formatF2
  split
  · exact absurd rfl hlen
  · rfl

theorem formatF4_of_length_ne (mk : Byte → Byte → Byte → Byte → Instr) {args : List Byte} (hlen : args.length ≠ 4) :
    formatF4 mk args = .error .eFormat := by
  unfold formatF4
  split
  · exact absurd rfl hlen
  · rfl

theorem packetF1_of_decode {op : Byte} {mk : Byte → Instr} (h : ∀ args, decode (op :: args) = formatF1 mk args) :
    PacketF1 op mk :=
  ⟨fun a => h [a], fun args hlen => (h args).trans (formatF1_of_length_ne mk hlen)⟩

theorem packetF2_of_decode {op : Byte} {mk : Byte → Byte → Instr}
    (h : ∀ args, decode (op :: args) = formatF2 mk args) : PacketF2 op mk :=
  ⟨fun a b => h [a, b], fun args hlen => (h args).trans (formatF2_of_length_ne mk hlen)⟩

/-- A command without `require` lines whose effect is its response alone. -/
theorem exec_answered {i : Instr} {s : State} {result : List Byte} (hm : s.MODE = .run)
    (h : exec i s = command i s [] (s.ok result)) : exec i s = .next (answered s result) :=
  h.trans (command_done hm firstFailure_nil)

end Sys2Proof.Machine
end

section
/-!
SUPPORT. The arithmetic of GF(2^8) (40_gf256.md R141 to R146). A byte stands for a residue of polynomials over GF(2)
modulo x^8 + x^4 + x^3 + x + 1, and different bytes for different residues: so addition, doubling and multiplication of
bytes are those of a commutative ring, and their laws are the ring's.
-/

namespace Sys2Proof

open Polynomial Sys2Proof.Claims

/-! ## Doubling, by cases on the high bit -/

theorem getLsbD_seven (b : Byte) : b.getLsbD 7 = decide (128 ≤ b.toNat) := b.msb_eq_decide

theorem gfMul2_of_lt {b : Byte} (h : b.toNat < 128) : gfMul2 b = b <<< 1 := by
  have hbit : ¬ b.getLsbD 7 = true := by rwa [getLsbD_seven, decide_eq_true_iff, not_le]
  exact if_neg hbit

theorem gfMul2_of_ge {b : Byte} (h : 128 ≤ b.toNat) : gfMul2 b = b <<< 1 ^^^ 0x1B := by
  have hbit : b.getLsbD 7 = true := by rwa [getLsbD_seven, decide_eq_true_iff]
  exact if_pos hbit

/-- The 9-bit form of doubling: twice the byte, with 11B taken off when that has a ninth bit (40_gf256.md R142). -/
theorem gfMul2_toNat (b : Byte) :
    (gfMul2 b).toNat = if b.toNat < 128 then 2 * b.toNat else (2 * b.toNat) ^^^ 0x11B := by
  split
  next h =>
    rw [gfMul2_of_lt h, BitVec.toNat_shiftLeft, Nat.shiftLeft_eq]
    omega
  next h =>
    have hninth : ((2 * b.toNat) ^^^ 0x11B) / 2 ^ 8 = 0 := by
      rw [Nat.xor_div_two_pow, show 2 * b.toNat / 2 ^ 8 = 1 by omega]
      rfl
    have hlow : ((2 * b.toNat) ^^^ 0x11B) % 2 ^ 8 = (2 * b.toNat) % 2 ^ 8 ^^^ 0x1B := Nat.xor_mod_two_pow
    rw [gfMul2_of_ge (by omega), BitVec.toNat_xor, BitVec.toNat_shiftLeft, Nat.shiftLeft_eq, mul_comm, pow_one]
    change _ ^^^ 0x1B = _
    omega

/-! ## Bytes as polynomials -/

theorem polynomial_coeff (b : Byte) (i : ℕ) : (polynomial b).coeff i = if b.getLsbD i then 1 else 0 := by
  have hterm (j : ℕ) : (if b.getLsbD j then X ^ j else 0 : (ZMod 2)[X]).coeff i
      = if i = j then if b.getLsbD j then 1 else 0 else 0 := by
    split <;> simp [coeff_X_pow]
  by_cases hi : i < 8
  · simp [polynomial, hterm, hi]
  · simp [polynomial, hterm, hi, BitVec.getLsbD_of_ge b i (by omega)]

theorem getLsbD_iff_coeff (b : Byte) (i : ℕ) : b.getLsbD i = true ↔ (polynomial b).coeff i = 1 := by
  simp [polynomial_coeff]

theorem polynomial_injective : Function.Injective polynomial := by
  intro a b h
  refine BitVec.eq_of_getLsbD_eq fun i _ => ?_
  rw [Bool.eq_iff_iff, getLsbD_iff_coeff, getLsbD_iff_coeff, h]

@[simp] theorem polynomial_zero : polynomial 0#8 = 0 := by
  ext i
  simp [polynomial_coeff]

@[simp] theorem polynomial_one : polynomial 1#8 = 1 := by
  ext i
  simp [polynomial_coeff, coeff_one, BitVec.getLsbD_one, eq_comm]

theorem polynomial_xor (a b : Byte) : polynomial (a ^^^ b) = polynomial a + polynomial b := by
  ext i
  rw [coeff_add, polynomial_coeff, polynomial_coeff, polynomial_coeff, BitVec.getLsbD_xor]
  cases a.getLsbD i <;> cases b.getLsbD i <;> decide

theorem degree_polynomial_lt (b : Byte) : (polynomial b).degree < 8 := by
  refine (degree_lt_iff_coeff_zero _ 8).2 fun i hi => ?_
  rw [polynomial_coeff, BitVec.getLsbD_of_ge b i hi]
  rfl

/-- A byte is its upper seven bits, times x, and its lowest bit. -/
theorem polynomial_eq_shiftRight (b : Byte) :
    polynomial b = X * polynomial (b >>> 1) + if b.getLsbD 0 then 1 else 0 := by
  ext i
  cases i with
  | zero => cases hb : b[0] <;> simp [polynomial_coeff, hb]
  | succ i => cases hb : b[0] <;> simp [polynomial_coeff, coeff_one, hb, add_comm]

/-- Times x is the shift and the bit that it drops. -/
theorem X_mul_polynomial (b : Byte) :
    X * polynomial b = polynomial (b <<< 1) + if b.getLsbD 7 then X ^ 8 else 0 := by
  ext i
  cases i with
  | zero => cases hb : b[7] <;> simp [polynomial_coeff, hb]
  | succ i =>
    rcases lt_trichotomy i 7 with hi | rfl | hi
    · cases hb : b[7] <;> simp [polynomial_coeff, coeff_X_pow, hb, hi.ne, Nat.succ_lt_succ hi, Nat.lt_succ_of_lt hi]
    · cases hb : b[7] <;> simp [polynomial_coeff, hb]
    · cases hb : b[7] <;> simp [polynomial_coeff, coeff_X_pow, hb, hi.ne', BitVec.getLsbD_of_ge b i hi]

/-! ## The modulus -/

theorem modulus_eq : modulus = X ^ 8 + polynomial Config.gfReduction := by
  have hbits : polynomial Config.gfReduction = X ^ 4 + X ^ 3 + X + 1 := by
    simp [polynomial, Config.gfReduction, Finset.sum_range_succ, BitVec.getLsbD_ofNat, Nat.testBit]
    ring
  rw [hbits, modulus]
  ring

theorem modulus_monic : modulus.Monic := by
  rw [modulus_eq]
  exact monic_X_pow_add (degree_polynomial_lt _)

theorem degree_modulus : modulus.degree = 8 := by
  rw [modulus_eq, degree_add_eq_left_of_degree_lt] <;> rw [degree_X_pow]
  · rfl
  · exact degree_polynomial_lt _

theorem polynomial_modByMonic (b : Byte) : polynomial b %ₘ modulus = polynomial b :=
  (modByMonic_eq_self_iff modulus_monic).2 (degree_modulus ▸ degree_polynomial_lt b)

/-- Doubling is times x, less the modulus when there is a term x^8. -/
theorem polynomial_gfMul2 (b : Byte) :
    polynomial (gfMul2 b) = X * polynomial b - if b.getLsbD 7 then modulus else 0 := by
  rw [X_mul_polynomial, gfMul2]
  split
  · rw [polynomial_xor, modulus_eq]
    linear_combination CharTwo.add_self_eq_zero (polynomial Config.gfReduction)
  · simp

/-! ## Bytes as residues modulo the modulus -/

/-- The residue of a byte's polynomial. -/
noncomputable def residue (b : Byte) : AdjoinRoot modulus := AdjoinRoot.mk modulus (polynomial b)

/-- A polynomial has the residue of a byte when the byte spells its remainder. -/
theorem residue_eq_iff (p : Byte) (f : (ZMod 2)[X]) :
    residue p = AdjoinRoot.mk modulus f ↔ polynomial p = f %ₘ modulus := by
  rw [residue, AdjoinRoot.mk_eq_mk, ← modByMonic_eq_zero_iff_dvd modulus_monic, sub_modByMonic, polynomial_modByMonic,
    sub_eq_zero]

theorem residue_injective : Function.Injective residue := by
  intro a b h
  have hremainder := (residue_eq_iff a (polynomial b)).1 h
  rw [polynomial_modByMonic] at hremainder
  exact polynomial_injective hremainder

@[simp] theorem residue_zero : residue 0#8 = 0 := by simp [residue]

@[simp] theorem residue_one : residue 1#8 = 1 := by simp [residue]

@[simp] theorem residue_xor (a b : Byte) : residue (a ^^^ b) = residue a + residue b := by
  simp [residue, polynomial_xor]

@[simp] theorem residue_gfMul2 (b : Byte) : residue (gfMul2 b) = AdjoinRoot.root modulus * residue b := by
  rw [residue, polynomial_gfMul2]
  split <;> simp [residue]

@[simp] theorem residue_gfMul3 (b : Byte) : residue (gfMul3 b) = (AdjoinRoot.root modulus + 1) * residue b := by
  rw [gfMul3, gfAdd, residue_xor, residue_gfMul2]
  ring

theorem residue_eq_shiftRight (b : Byte) :
    residue b = AdjoinRoot.root modulus * residue (b >>> 1) + if b.getLsbD 0 then 1 else 0 := by
  rw [residue, polynomial_eq_shiftRight]
  split <;> simp [residue]

/-- The invariant of the loop: what is accumulated and the product still to come make the whole product. -/
theorem residue_gfMulLoop (n : ℕ) (p a b : Byte) (hb : b.toNat < 2 ^ n) :
    residue (gfMulLoop n p a b) = residue p + residue a * residue b := by
  induction n generalizing p a b with
  | zero =>
    have hzero : b = 0 := BitVec.eq_of_toNat_eq (by simpa using hb)
    simp [gfMulLoop, hzero]
  | succ n ih =>
    have hhalf : (b >>> 1).toNat < 2 ^ n := by
      rw [BitVec.toNat_ushiftRight, Nat.shiftRight_one]
      omega
    rw [gfMulLoop, ih _ _ _ hhalf, residue_gfMul2, residue_eq_shiftRight b]
    split
    · rw [residue_xor]
      ring
    · ring

@[simp] theorem residue_gfMul (a b : Byte) : residue (gfMul a b) = residue a * residue b := by
  rw [gfMul, residue_gfMulLoop 8 0 a b b.isLt]
  simp

/-! ## The laws -/

theorem gfMul_comm (a b : Byte) : gfMul a b = gfMul b a :=
  residue_injective (by simp [mul_comm])

theorem gfMul_assoc (a b c : Byte) : gfMul (gfMul a b) c = gfMul a (gfMul b c) :=
  residue_injective (by simp [mul_assoc])

theorem gfMul_gfAdd (a b c : Byte) : gfMul a (gfAdd b c) = gfAdd (gfMul a b) (gfMul a c) :=
  residue_injective (by simp [gfAdd, mul_add])

@[simp] theorem gfMul_zero (a : Byte) : gfMul a 0#8 = 0#8 := residue_injective (by simp)

@[simp] theorem zero_gfMul (a : Byte) : gfMul 0#8 a = 0#8 := residue_injective (by simp)

@[simp] theorem gfMul_one (a : Byte) : gfMul a 1#8 = a := residue_injective (by simp)

@[simp] theorem one_gfMul (a : Byte) : gfMul 1#8 a = a := residue_injective (by simp)

/-- The byte 2 is the double of 1. -/
@[simp] theorem two_gfMul (b : Byte) : gfMul 2#8 b = gfMul2 b := by
  have h2 : 2#8 = gfMul2 1 := by decide
  exact residue_injective (by simp [h2])

/-- The byte 3 is the triple of 1. -/
@[simp] theorem three_gfMul (b : Byte) : gfMul 3#8 b = gfMul3 b := by
  have h3 : 3#8 = gfMul3 1 := by decide
  exact residue_injective (by simp [h3])

/-- The shift is even, and what is reduced is odd. -/
theorem gfMul2_ne_shiftLeft {b : Byte} (h : 128 ≤ b.toNat) : gfMul2 b ≠ b <<< 1 := by
  intro heq
  rw [gfMul2_of_ge h] at heq
  have hlowest := congrArg (BitVec.getLsbD · 0) heq
  simp at hlowest

/-- The matrix written out (40_gf256.md R145). -/
theorem mixCoefficient_eq (r c : Fin 4) :
    mixCoefficient r c = !![2, 3, 1, 1; 1, 2, 3, 1; 1, 1, 2, 3; 3, 1, 1, 2] r c := by
  fin_cases r <;> fin_cases c <;> rfl

/-- Each row of the matrix product is a line of `mix_column`. -/
theorem mixedByte_eq (c : AesWord) (r : Fin 4) : mixedByte c r = (mixColumn c).get r := by
  match r with
  | 0 | 1 | 2 | 3 => simp [mixedByte, mixCoefficient_eq, mixColumn, AesWord.get]

end Sys2Proof
end

section
/-!
PROOFS. The commands of the GF(2^8) unit (40_gf256.md R146 to R151).
-/

namespace Sys2Proof.Machine

open Sys2Proof.Claims

/-- Settles O26: GF.MUL answers the byte whose residue is the product of the operands' residues. -/
theorem gfMulIsThePolynomialProduct : Obligations.GfMulIsThePolynomialProduct := by
  refine ⟨packetF2_of_decode fun _ => rfl, fun s a b hm => ⟨gfMul a b, exec_answered hm rfl, ?_⟩⟩
  rw [← residue_eq_iff, map_mul]
  exact residue_gfMul a b

/-- Settles O27: the laws of the ring of residues. -/
theorem gfArithmeticLaws : Obligations.GfArithmeticLaws := fun a b c =>
  ⟨gfMul_comm a b, BitVec.xor_self, gfMul2_ne_shiftLeft, gfMul_zero a, zero_gfMul a, gfMul_one a, two_gfMul b,
    three_gfMul b, gfMul_assoc a b c, gfMul_gfAdd a b c⟩

/-- Settles O25, doubling by its 9-bit form. -/
theorem gfAddAndDoublingEffect : Obligations.GfAddAndDoublingEffect :=
  ⟨packetF2_of_decode fun _ => rfl, packetF1_of_decode fun _ => rfl, packetF1_of_decode fun _ => rfl,
    fun _ _ b hm => ⟨exec_answered hm rfl, gfMul2 b, gfMul2_toNat b, exec_answered hm rfl, exec_answered hm rfl⟩⟩

/-- Settles O28, byte by byte of the column. -/
theorem gfMixcolIsTheMatrixProduct : Obligations.GfMixcolIsTheMatrixProduct := by
  refine ⟨fun _ _ _ _ => rfl, fun args hlen => formatF4_of_length_ne .gfMixcol hlen, fun s c0 c1 c2 c3 hm => ?_⟩
  simp only [mixedByte_eq]
  exact exec_answered hm rfl

end Sys2Proof.Machine
end

section
/-!
SUPPORT. What the decoder makes of the formats FP, FX and FR (30_encoding.md R111), what a command with `require` lines
answers in RUN mode, and what the operations of the bit-vector unit give, position by position
(41_bitvector_permutation.md R161 to R165).
-/

namespace Sys2Proof

open Sys2Proof.Claims

/-! ## Packets too short for two operand bytes -/

section

variable {args : List Byte}

theorem formatFP_of_length_lt (mk : Byte → Byte → List Byte → Instr) (hlen : args.length < 2) :
    formatFP mk args = .error .eFormat := by
  unfold formatFP
  split
  · simp at hlen
  · rfl

theorem formatFX_of_length_lt (mk : Byte → Byte → List Byte → List Byte → Instr) (hlen : args.length < 2) :
    formatFX mk args = .error .eFormat := by
  unfold formatFX
  split
  · simp at hlen
  · rfl

theorem formatFR_of_length_lt (mk : Byte → Byte → List Byte → Instr) (hlen : args.length < 2) :
    formatFR mk args = .error .eFormat := by
  unfold formatFR
  split
  · simp at hlen
  · rfl

end

/-! ## Bit strings as bytes -/

/-- Position p of an operand is the position p that its bytes spell (20_memory.md R71). -/
theorem unpack_getMsbD_eq_bitOf {A : List Byte} {n p : Nat} (hlen : A.length = (n + 7) / 8) (hp : p < n) :
    (unpack A n).getMsbD p = bitOf A p :=
  unpack_getMsbD A n p (by omega) hp

/-- A packed bit string spells any function that agrees with it on its positions. -/
theorem pack_spellsBits_of_eq {n : Nat} {X : BitVec n} {f : Nat → Bool} (h : ∀ p < n, X.getMsbD p = f p) :
    SpellsBits (pack X) n f := by
  obtain ⟨hlen, hbits⟩ := Machine.pack_spellsBits X
  refine ⟨hlen, fun p hp => (hbits p hp).trans ?_⟩
  split
  next hn => exact h p hn
  next => rfl

/-- No entry of the table names a position beyond the operand, so each position of the result is one that the operand's
bytes spell (41_bitvector_permutation.md R163). -/
theorem pack_permute_spellsBits {data : List Byte} {n : Nat} {T : List Nat} (hlen : data.length = (n + 7) / 8)
    (hn : 1 ≤ n) (hT : ∀ t ∈ T, t ≤ n) :
    SpellsBits (pack (permute T.length T (unpack data n))) T.length fun p => bitOf data (T.getD p 0 - 1) := by
  refine pack_spellsBits_of_eq fun p hp => ?_
  have hentry : T.getD p 0 ≤ n := by
    rw [List.getD_eq_getElem T 0 hp]
    exact hT _ (List.getElem_mem hp)
  rw [permute_getMsbD T _ rfl p hp, unpack_getMsbD_eq_bitOf hlen (by omega)]

/-- Only the first n positions of either operand reach the result (41_bitvector_permutation.md R164). -/
theorem pack_xorbits_spellsBits {A B : List Byte} {n : Nat} (hA : A.length = (n + 7) / 8)
    (hB : B.length = (n + 7) / 8) :
    SpellsBits (pack (xorbits (unpack A n) (unpack B n))) n fun p => bitOf A p ^^ bitOf B p := by
  refine pack_spellsBits_of_eq fun p hp => ?_
  rw [xorbits, BitVec.getMsbD_xor, unpack_getMsbD_eq_bitOf hA hp, unpack_getMsbD_eq_bitOf hB hp]

/-- The rotation stays within the n positions of the operand (41_bitvector_permutation.md R165). -/
theorem pack_rol_spellsBits {data : List Byte} {n : Nat} (hlen : data.length = (n + 7) / 8) (cnt : Nat) :
    SpellsBits (pack (rol (unpack data n) cnt)) n fun p => bitOf data ((cnt + p) % n) := by
  refine pack_spellsBits_of_eq fun p hp => ?_
  rw [rol_getMsbD _ _ _ hp, unpack_getMsbD_eq_bitOf hlen (Nat.mod_lt _ (by omega))]

end Sys2Proof

namespace Sys2Proof.Machine

open Sys2Proof.Claims

/-! ## The `require` lines, one at a time -/

section

variable {c : Prop} [Decidable c] {code : FaultCode} {rest : List (Bool × FaultCode)}

theorem firstFailure_of_holds (h : c) : firstFailure (require c code :: rest) = firstFailure rest := by
  rw [firstFailure_require, if_pos h]

theorem firstFailure_of_fails (h : ¬ c) : firstFailure (require c code :: rest) = some code := by
  rw [firstFailure_require, if_neg h]

end

/-- In RUN mode a command whose `require` lines hold leaves the state it computes. -/
theorem exec_done {i : Instr} {s done : State} {checks : List (Bool × FaultCode)} (hm : s.MODE = .run)
    (h : exec i s = command i s checks done) (hc : firstFailure checks = none) : exec i s = .next done :=
  h.trans (command_done hm hc)

/-- In RUN mode a command takes the fault of its first `require` line that fails. -/
theorem exec_faults {i : Instr} {s done : State} {checks : List (Bool × FaultCode)} (hm : s.MODE = .run)
    (h : exec i s = command i s checks done) (code : FaultCode) (hc : firstFailure checks = some code) :
    exec i s = .next (faultTaken s (FaultCode.toByte code) i.opcode) :=
  h.trans (command_fails hm hc)

/-! ## The tables -/

/-- An entry of 0 to 64 fits the seven bits of its place in the table. -/
theorem loadedTable_toNat {entries : List Byte} (he : ∀ e ∈ entries, e.toNat ≤ 64) (i : Fin 64) :
    (loadedTable entries)[i].toNat = (entries.getD i.val 0).toNat := by
  have hentry : (entries.getD i.val 0).toNat ≤ 64 := by
    by_cases hi : i.val < entries.length
    · rw [List.getD_eq_getElem entries 0 hi]
      exact he _ (List.getElem_mem hi)
    · rw [List.getD_eq_default entries 0 (Nat.le_of_not_lt hi)]
      decide
  have htable : (loadedTable entries)[i] = (entries.getD i.val 0).setWidth 7 := by simp [loadedTable]
  rw [htable, BitVec.toNat_setWidth]
  omega

/-- The tables of R161, those of the DES engine numbered from 1. -/
theorem permTable_eq (sel : Byte) (s : State) :
    permTable sel s =
      if sel.toNat = 0 then (s.PT.toList.take s.PTLEN.toNat).map BitVec.toNat
      else [tableIP, tableFP, tableE, tableP, tablePC1, tablePC2].getD (sel.toNat - 1) [] := by
  unfold permTable
  match sel.toNat with
  | 0 | 1 | 2 | 3 | 4 | 5 | 6 => rfl
  | _ + 7 => rfl

end Sys2Proof.Machine
end

section
/-!
PROOFS. The commands of the bit-vector unit (41_bitvector_permutation.md R162 to R165).
-/

namespace Sys2Proof.Machine

open Sys2Proof.Claims

/-- Settles O29: the entries fit the table's places, and the places after them hold 0. -/
theorem bvLdtEffect : Obligations.BvLdtEffect := by
  refine ⟨fun _ => rfl, fun s es hm h1 h64 => ⟨?operand, ?loaded⟩⟩
  case operand =>
    rintro ⟨e, he, hbad⟩
    have hrange : ¬ ∀ e ∈ es, 1 ≤ e.toNat ∧ e.toNat ≤ 64 := fun hall => by
      have hgood := hall e he
      omega
    exact exec_faults hm rfl .eOperand ((firstFailure_of_holds ⟨h1, h64⟩).trans (firstFailure_of_fails hrange))
  case loaded =>
    intro hrange
    refine ⟨loadedTable es, BitVec.ofNat 7 es.length, ?_, ?_, loadedTable_toNat fun e he => (hrange e he).2⟩
    · exact exec_done hm rfl ((firstFailure_of_holds ⟨h1, h64⟩).trans (firstFailure_of_holds hrange))
    · rw [BitVec.toNat_ofNat]
      omega

/-- Settles O30: the four `require` lines in their order, then the permuted bits position by position. -/
theorem bvPermEffect : Obligations.BvPermEffect := by
  refine ⟨fun _ _ _ => rfl, fun args => formatFP_of_length_lt .bvPerm, fun s sel nbits data hm hlen => ?_⟩
  rw [← permTable_eq sel s]
  intro T legal loaded
  have hloaded : loaded ↔ sel.toNat ≠ 0 ∨ 1 ≤ s.PTLEN.toNat := imp_iff_not_or
  refine ⟨fun hl => ?operand, fun hl hp => ?sequence, fun hl hp => ?index, fun hl hp ht => ?permuted⟩
  case operand =>
    exact exec_faults hm rfl .eOperand ((firstFailure_of_holds hlen).trans (firstFailure_of_fails hl))
  case sequence =>
    exact exec_faults hm rfl .eSequence ((firstFailure_of_holds hlen).trans <| (firstFailure_of_holds hl).trans <|
      firstFailure_of_fails (mt hloaded.2 hp))
  case index =>
    rintro ⟨t, ht, hbeyond⟩
    exact exec_faults hm rfl .eIndex ((firstFailure_of_holds hlen).trans <| (firstFailure_of_holds hl).trans <|
      (firstFailure_of_holds (hloaded.1 hp)).trans <| firstFailure_of_fails fun hall => (hall t ht).not_gt hbeyond)
  case permuted =>
    refine ⟨_, exec_done hm rfl ?_, pack_permute_spellsBits hlen hl.2.1 ht⟩
    exact (firstFailure_of_holds hlen).trans <| (firstFailure_of_holds hl).trans <|
      (firstFailure_of_holds (hloaded.1 hp)).trans (firstFailure_of_holds ht)

/-- Settles O31: the three `require` lines in their order, then the exclusive-or position by position. -/
theorem bvXorEffect : Obligations.BvXorEffect := by
  refine ⟨fun _ _ _ => rfl, fun args => formatFX_of_length_lt .bvXor, fun s na nb A B hm hA hB => ?_⟩
  intro legal
  have hlegal : legal ↔ (1 ≤ na.toNat ∧ na.toNat ≤ 64) ∧ 1 ≤ nb.toNat ∧ nb.toNat ≤ 64 := and_assoc.symm
  refine ⟨fun hl => ?operand, fun hl hne => ?length, fun hl heq => ?xored⟩
  case operand =>
    exact exec_faults hm rfl .eOperand
      ((firstFailure_of_holds ⟨hA, hB⟩).trans (firstFailure_of_fails (mt hlegal.2 hl)))
  case length =>
    exact exec_faults hm rfl .eLength ((firstFailure_of_holds ⟨hA, hB⟩).trans <|
      (firstFailure_of_holds (hlegal.1 hl)).trans (firstFailure_of_fails hne))
  case xored =>
    subst heq
    refine ⟨_, exec_done hm rfl ?_, pack_xorbits_spellsBits hA hB⟩
    exact (firstFailure_of_holds ⟨hA, hB⟩).trans <|
      (firstFailure_of_holds (hlegal.1 hl)).trans (firstFailure_of_holds rfl)

/-- Settles O32: the two `require` lines in their order, then the rotated bits position by position. -/
theorem bvRolEffect : Obligations.BvRolEffect := by
  refine ⟨fun _ _ _ => rfl, fun args => formatFR_of_length_lt .bvRol, fun s nbits cnt data hm hlen => ?_⟩
  intro legal
  have hlegal : legal ↔ (1 ≤ nbits.toNat ∧ nbits.toNat ≤ 64) ∧ cnt.toNat < nbits.toNat := and_assoc.symm
  refine ⟨fun hl => ?operand, fun hl => ?rotated⟩
  case operand =>
    exact exec_faults hm rfl .eOperand ((firstFailure_of_holds hlen).trans (firstFailure_of_fails (mt hlegal.2 hl)))
  case rotated =>
    refine ⟨_, exec_done hm rfl ?_, pack_rol_spellsBits hlen cnt.toNat⟩
    exact (firstFailure_of_holds hlen).trans (firstFailure_of_holds (hlegal.1 hl))

end Sys2Proof.Machine
end

section
/-!
SUPPORT. The AES engine as the statements of 42_aes.md speak of it: what the decoder makes of format F0, the numeric
fields of its records, the words that a key load and the key expansion leave, and the laws of its transformations.
-/

namespace Sys2Proof

open Sys2Proof.Claims

/-! ## Packets, padding and numeric fields -/

/-- A command of format F0 has a packet of one byte (30_encoding.md R111). -/
theorem packetF0_of_decode {op : Byte} {i : Instr} (h : ∀ args, decode (op :: args) = formatF0 i args) :
    PacketF0 op i := by
  refine ⟨h [], fun args hne => ?_⟩
  cases args with
  | nil => exact absurd rfl hne
  | cons b bs => exact h (b :: bs)

theorem padz16_getD (A : List Byte) {i : Nat} (h : i < 16) : (padz16 A).getD i 0 = A.getD i 0 :=
  padTo_getD 16 0 A i h

/-- The sequencer stamps a record with its value, in one byte (20_memory.md R76). -/
theorem numericField_sequencer (r : BitVec 4) : numericField r.toNat = [r.setWidth 8] := by
  rw [numericField, BitVec.ofNat_toNat]

theorem numericField_byte (k : Byte) : numericField k.toNat = [k] := by
  rw [numericField, BitVec.ofNat_toNat, BitVec.setWidth_eq]

/-! ## The transformations -/

/-- A row moved on by its own number four times is back in place. -/
theorem shiftRows_four (a : AesState) : shiftRows (shiftRows (shiftRows (shiftRows a))) = a := by
  have hback : ∀ r c : Fin 4, c + r + r + r + r = c := by decide
  exact AesState.ext_get fun r c => by simp only [shiftRows, AesState.get_ofFn, hback]

theorem AesState.xor_xor_cancel (a k : AesState) : (a.xor k).xor k = a :=
  AesState.ext_get fun r c => by
    rw [AesState.get_xor, AesState.get_xor, BitVec.xor_assoc, BitVec.xor_self, BitVec.xor_zero]

/-- The row and the column of the S-box are the high and the low nibble (42_aes.md R182). -/
theorem sbox_eq_nibbles (b : Byte) :
    sbox b = (sboxRows.getD (b >>> 4).toNat []).getD (b &&& 0x0F).toNat 0 := by
  have hrow : (b >>> 4).toNat = b.toNat / 16 := by
    rw [BitVec.toNat_ushiftRight, Nat.shiftRight_eq_div_pow]
  have hcol : (b &&& 0x0F).toNat = b.toNat % 16 := by
    rw [BitVec.toNat_and]
    exact Nat.and_two_pow_sub_one_eq_mod b.toNat 4
  rw [hrow, hcol, sbox]

/-! ## The key words -/

theorem keyWord_get (key : List Byte) (j : Nat) (r : Fin 4) : (keyWord key j).get r = key.getD (4 * j + r.val) 0 :=
  AesWord.get_ofFn _ r

theorem tempOf_congr {W W' : Vector AesWord 44} {i : Nat} (h : wordOf W (i - 1) = wordOf W' (i - 1)) :
    tempOf W i = tempOf W' i := by
  rw [tempOf, tempOf, h]

/-- The record of word i of a schedule (42_aes.md R190). -/
def kswordRecord (W : Vector AesWord 44) (i : Nat) : TraceRecord :=
  .ksword i (wordOf W (i - 1)) (wordOf W (i - 4)) (tempOf W i) (wordOf W i)

/-- The n words from word i on are derived by the recurrence of 42_aes.md R190, and the words before them kept. -/
structure DerivesWords (i n : Nat) (W W' : Vector AesWord 44) : Prop where
  kept : ∀ j < i, wordOf W' j = wordOf W j
  derived : ∀ j, i ≤ j → j < i + n → wordOf W' j = (wordOf W' (j - 4)).xor (tempOf W' j)

end Sys2Proof

namespace Sys2Proof.Machine

open Sys2Proof.Claims

/-- A key load leaves the derived words alone (42_aes.md R194). -/
theorem State.setKeyWords_getElem_of_le (s : State) (key : List Byte) {j : Nat} (h4 : 4 ≤ j) (hj : j < 44) :
    (s.setKeyWords key)[j] = s.W[j] := by
  have hne : ∀ k < 4, k ≠ j := fun k hk => by omega
  simp [State.setKeyWords, List.range_succ, hne]

/-- A key load fills `W[0..3]` with the data, four bytes a word (42_aes.md R188, R194). -/
theorem State.setKeyWords_get (s : State) (data : List Byte) {j : Nat} (h4 : j < 4) (r : Fin 4) :
    (s.setKeyWords (padz16 data))[j].get r = data.getD (4 * j + r.val) 0 := by
  have hword : (s.setKeyWords (padz16 data))[j] = keyWord (padz16 data) j :=
    (State.word_eq_getElem { s with W := s.setKeyWords (padz16 data) } j (by omega)).symm.trans
      (s.setKeyWords_word _ h4)
  rw [hword, keyWord_get, padz16_getD data (by omega)]

/-- The loop of the key expansion from word i on: a word is derived from words that the rest of the loop keeps, so the
recurrence and the records hold of the words that the loop ends with (42_aes.md R190). -/
theorem State.expandWords_derives (n : Nat) {i : Nat} (s : State) (h4 : 4 ≤ i) (hn : i + n ≤ 44) :
    ∃ words : Vector AesWord 44, DerivesWords i n s.W words ∧
      (List.range' i n).foldl State.expandWord s = { s with
        W := words
        trc := s.trc ++ (List.range' i n).map fun j => (kswordRecord words j).packet } := by
  induction n generalizing i s with
  | zero => exact ⟨s.W, ⟨fun _ _ => rfl, fun j hle hlt => by omega⟩, by simp⟩
  | succ n ih =>
    obtain ⟨words, ⟨hkept, hderived⟩, hrest⟩ := ih (s.expandWord i) (i := i + 1) (by omega) (by omega)
    have hword (j : Nat) (hj : j < i + 1) :
        wordOf words j = if j = i then (s.word (i - 4)).xor (s.scheduleTemp i) else s.word j :=
      (hkept j hj).trans (s.expandWord_word (by omega) j)
    have hbefore (j : Nat) (hj : j < i) : wordOf words j = wordOf s.W j :=
      (hword j (by omega)).trans (if_neg (by omega))
    have htemp : tempOf words i = tempOf s.W i := tempOf_congr (hbefore (i - 1) (by omega))
    have hnew : wordOf words i = (wordOf s.W (i - 4)).xor (tempOf s.W i) := (hword i (by omega)).trans (if_pos rfl)
    have hrecord : kswordRecord words i = .ksword i (s.word (i - 1)) (s.word (i - 4)) (s.scheduleTemp i)
        ((s.word (i - 4)).xor (s.scheduleTemp i)) := by
      rw [kswordRecord, hnew, htemp, hbefore (i - 1) (by omega), hbefore (i - 4) (by omega)]
      rfl
    refine ⟨words, ⟨hbefore, fun j hle hlt => ?_⟩, ?_⟩
    · rcases hle.eq_or_lt with rfl | hgt
      · rw [hnew, htemp, hbefore (i - 4) (by omega)]
      · exact hderived j hgt (by omega)
    · rw [List.range'_succ, List.foldl_cons, hrest, State.expandWord_eq, List.map_cons, hrecord, List.append_assoc,
        List.singleton_append]

/-! ## The commands -/

/-- In RUN mode a command whose first `require` line is on a register takes the sequence fault when it fails. -/
theorem exec_sequenceFault {i : Instr} {s done : State} {c : Prop} [Decidable c] {rest : List (Bool × FaultCode)}
    (hm : s.MODE = .run) (h : exec i s = command i s (require c .eSequence :: rest) done) (hc : ¬ c) :
    exec i s = .next (faultTaken s 5 i.opcode) :=
  exec_faults hm h .eSequence (firstFailure_of_fails hc)

/-- The same for a command whose operand, the round-key number, is tested first (42_aes.md R199, R203). -/
theorem exec_roundKey_faults {i : Instr} {s done : State} {k : Byte} {c : Prop} [Decidable c] (hm : s.MODE = .run)
    (h : exec i s = command i s [require (k.toNat ≤ Config.aesRounds) .eOperand, require c .eSequence] done) :
    (10 < k.toNat → exec i s = .next (faultTaken s 3 i.opcode)) ∧
      (k.toNat ≤ 10 → ¬ c → exec i s = .next (faultTaken s 5 i.opcode)) :=
  ⟨fun hk => exec_faults hm h .eOperand (firstFailure_of_fails (Nat.not_le.mpr hk)),
    fun hk hc => exec_faults hm h .eSequence ((firstFailure_of_holds hk).trans (firstFailure_of_fails hc))⟩

/-- A transformation of the state register whose packet holds the round and the states before and after
(42_aes.md R191). -/
theorem exec_transform {i : Instr} {s : State} {x : AesState} {tag : Byte} {record : TraceRecord}
    (hm : s.MODE = .run) (hv : s.ASV = true)
    (h : exec i s = command i s [require s.ASV .eSequence] (State.ok (State.emit { s with S := x } record) []))
    (hrecord : record.packet = tag :: (numericField s.ARND.toNat ++ s.S.bytes ++ x.bytes)) :
    exec i s = .next (answered
      { s with S := x, trc := s.trc ++ [tag :: s.ARND.setWidth 8 :: (s.S.bytes ++ x.bytes)] } []) := by
  rw [numericField_sequencer, List.append_assoc, List.singleton_append] at hrecord
  rw [← hrecord]
  exact exec_done hm h (firstFailure_of_holds hv)

theorem exec_aesAddrk {s : State} {k : Byte} (hm : s.MODE = .run) (hk : k.toNat ≤ 10) (hv : s.ASV = true)
    (hs : s.AKSV = true) : exec (.aesAddrk k) s = .next ((s.doArk k.toNat).ok []) :=
  exec_done hm rfl ((firstFailure_of_holds hk).trans (firstFailure_of_holds ⟨hv, hs⟩))

theorem exec_aesShiftrows {s : State} (hm : s.MODE = .run) (hv : s.ASV = true) :
    exec .aesShiftrows s = .next (s.doShift.ok []) :=
  exec_done hm rfl (firstFailure_of_holds hv)

/-- AES.SHIFTROWS n times moves the rows n times. -/
theorem execAll_aesShiftrows (n : Nat) {s : State} (hm : s.MODE = .run) (hv : s.ASV = true) :
    ∃ t, execAll (List.replicate n .aesShiftrows) s = some t ∧ t.S = shiftRows^[n] s.S := by
  induction n generalizing s with
  | zero => exact ⟨s, rfl, rfl⟩
  | succ n ih =>
    obtain ⟨t, hrun, hS⟩ := ih (s := s.doShift.ok []) hm hv
    exact ⟨t, (execAll_cons (exec_aesShiftrows hm hv) _).trans hrun, hS⟩

/-- When AES.ROUND and AES.ENC cannot start, their `require` line fails (42_aes.md R200, R201). -/
theorem not_ready_of_missing {s : State} (h : s.ASV = false ∨ s.AKSV = false ∨ 10 < s.ARND.toNat) :
    ¬ (s.ASV = true ∧ s.AKSV = true ∧ s.ARND.toNat ≤ Config.aesRounds) := by
  rintro ⟨hv, hs, hr⟩
  rcases h with hv' | hs' | hr'
  · exact Bool.false_ne_true (hv'.symm.trans hv)
  · exact Bool.false_ne_true (hs'.symm.trans hs)
  · exact Nat.not_le.mpr hr' hr

/-- AES.ENC allows eleven rounds and performs those that remain. -/
theorem State.runRounds_remaining {s : State} (hr : s.ARND.toNat ≤ 10) :
    State.runRounds 11 s = State.runRounds (11 - s.ARND.toNat) s := by
  have hmore (m : Nat) (hm : 11 - s.ARND.toNat ≤ m) :
      State.runRounds m s = State.runRounds (11 - s.ARND.toNat) s := by
    induction m, hm using Nat.le_induction with
    | base => rfl
    | succ m hm ih => rw [State.runRounds_enough m (by omega), ih]
  exact hmore 11 (Nat.sub_le _ _)

/-- The rounds that remain end with the sequencer at 11. -/
theorem sequencer_add_remaining {r : BitVec 4} (hr : r.toNat ≤ 10) : r + BitVec.ofNat 4 (11 - r.toNat) = 11 := by
  refine BitVec.eq_of_toNat_eq ?_
  rw [BitVec.toNat_add, BitVec.toNat_ofNat]
  change _ = 11
  omega

theorem sequencer_succ (r : BitVec 4) : r + 1 = BitVec.ofNat 4 (r.toNat + 1) := by
  rw [BitVec.ofNat_add, BitVec.ofNat_toNat, BitVec.setWidth_eq]
  rfl

end Sys2Proof.Machine
end

section
/-!
SUPPORT. The S-box against the arithmetic of GF(2^8) (42_aes.md R183): the affine map undone on an S-box entry gives the
inverse of the byte looked up. That is one check of the table; the rest follows from the laws of the product.
-/

namespace Sys2Proof

open Sys2Proof.Claims

/-- The affine map of 42_aes.md R183. -/
def sboxAffine (a : Byte) : Byte := a ^^^ rotl8 a 1 ^^^ rotl8 a 2 ^^^ rotl8 a 3 ^^^ rotl8 a 4 ^^^ 0x63

/-- The affine map that undoes `sboxAffine`. -/
def sboxUnaffine (y : Byte) : Byte := rotl8 y 1 ^^^ rotl8 y 3 ^^^ rotl8 y 6 ^^^ 0x05

theorem sboxAffine_sboxUnaffine (y : Byte) : sboxAffine (sboxUnaffine y) = y := by
  revert y
  decide +kernel

/-- The check of the table: below the affine map each entry is the inverse of its byte. -/
theorem sboxUnaffine_sbox_gfMul : ∀ b : Byte, b ≠ 0 → gfMul (sboxUnaffine (sbox b)) b = 1 := by
  decide +kernel

theorem sbox_ne_self : ∀ b : Byte, sbox b ≠ b := by
  decide +kernel

/-- A byte has at most one inverse. -/
theorem inverse_unique {a a' b : Byte} (h : gfMul a b = 1#8) (h' : gfMul a' b = 1#8) : a = a' := by
  calc a = gfMul a (gfMul a' b) := by rw [h', gfMul_one]
    _ = gfMul a' (gfMul a b) := by rw [← gfMul_assoc, gfMul_comm a a', gfMul_assoc]
    _ = a' := by rw [h, gfMul_one]

theorem ne_zero_of_gfMul_eq_one {a b : Byte} (h : gfMul a b = 1) : b ≠ 0 := by
  rintro rfl
  exact absurd ((gfMul_zero a).symm.trans h) (by decide)

theorem sbox_eq_sboxAffine {a b : Byte} (h : gfMul a b = 1) : sbox b = sboxAffine a := by
  rw [inverse_unique h (sboxUnaffine_sbox_gfMul b (ne_zero_of_gfMul_eq_one h)), sboxAffine_sboxUnaffine]

/-- Only 0 has the entry of 0: the affine map undone there is 0, which is no byte's inverse. -/
theorem eq_zero_of_sbox_eq {b : Byte} (h : sbox b = sbox 0) : b = 0 := by
  by_contra hb
  have hinv := sboxUnaffine_sbox_gfMul b hb
  rw [h, show sboxUnaffine (sbox 0) = 0 by decide, gfMul_comm] at hinv
  exact ne_zero_of_gfMul_eq_one hinv rfl

/-- Bytes with one entry have one inverse, and so are the same. -/
theorem sbox_injective {a b : Byte} (h : sbox a = sbox b) : a = b := by
  by_cases hb : b = 0
  · subst hb
    exact eq_zero_of_sbox_eq h
  by_cases ha : a = 0
  · subst ha
    exact (eq_zero_of_sbox_eq h.symm).symm
  have hinv := sboxUnaffine_sbox_gfMul a ha
  have hinv' := sboxUnaffine_sbox_gfMul b hb
  rw [← h] at hinv'
  rw [gfMul_comm] at hinv hinv'
  exact inverse_unique hinv hinv'

end Sys2Proof
end

section
/-!
PROOFS. The AES engine (42_aes.md R181 to R204).
-/

namespace Sys2Proof.Machine

open Sys2Proof.Claims

/-- Settles O33: the block cell by cell and the key words byte by byte, both from the padded data. -/
theorem aesLoadsEffect : Obligations.AesLoadsEffect := by
  refine ⟨fun _ => rfl, fun _ => rfl, fun s data hm => ⟨?block, ?key⟩⟩
  case block =>
    refine ⟨stateOf (padz16 data), exec_done hm rfl firstFailure_nil, fun r c => ?_⟩
    rw [stateOf_get, padz16_getD data (by omega)]
  case key =>
    exact ⟨s.setKeyWords (padz16 data), exec_done hm rfl firstFailure_nil,
      fun i h4 r => s.setKeyWords_get data h4 r, fun i h4 => s.setKeyWords_getElem_of_le _ h4 i.isLt⟩

/-- Settles O34: the loop from word 4 on derives all forty words. -/
theorem aesKeyexpEffect : Obligations.AesKeyexpEffect := by
  refine ⟨packetF0_of_decode fun _ => rfl, fun s hm => ⟨fun hv => ?fault, fun hv => ?expanded⟩⟩
  case fault => exact exec_sequenceFault hm rfl (ne_true_of_eq_false hv)
  case expanded =>
    obtain ⟨words, ⟨hkept, hderived⟩, hloop⟩ := s.expandWords_derives 40 (i := 4) le_rfl le_rfl
    have hdone : exec .aesKeyexp s = .next (State.ok { s.expandKey with AKSV := true } []) :=
      exec_done hm rfl (firstFailure_of_holds hv)
    rw [State.expandKey, hloop] at hdone
    exact ⟨words, hdone, hkept, hderived⟩

/-- Settles O35: each command replaces the state register and sends one packet with the states before and after. -/
theorem aesTransformsEffect : Obligations.AesTransformsEffect := by
  refine ⟨packetF0_of_decode fun _ => rfl, packetF0_of_decode fun _ => rfl, packetF0_of_decode fun _ => rfl,
    fun s hm => ⟨fun hv => ?fault, fun hv => ?transformed⟩⟩
  case fault =>
    have hnot : ¬ s.ASV = true := ne_true_of_eq_false hv
    exact ⟨exec_sequenceFault hm rfl hnot, exec_sequenceFault hm rfl hnot, exec_sequenceFault hm rfl hnot⟩
  case transformed =>
    refine ⟨subBytes s.S, shiftRows s.S, mixColumns s.S, exec_transform hm hv rfl rfl, exec_transform hm hv rfl rfl,
      exec_transform hm hv rfl rfl, fun row col => ⟨AesState.get_ofFn _ row col, AesState.get_ofFn _ row col, ?_⟩⟩
    rw [mixColumns, AesState.get_ofCols, mixedByte_eq]

/-- Settles O36: the operand before the flags, then the exclusive-or cell by cell. -/
theorem aesAddrkEffect : Obligations.AesAddrkEffect := by
  refine ⟨packetF1_of_decode fun _ => rfl, fun s k hm => ?_⟩
  obtain ⟨hoperand, hsequence⟩ := exec_roundKey_faults (i := .aesAddrk k) hm rfl
  refine ⟨hoperand, fun hk hflags => hsequence hk ?_, fun hk hv hs => ⟨s.addRoundKey k.toNat, ?_, fun row col => ?_⟩⟩
  · rintro ⟨hv, hs⟩
    simp [hv, hs] at hflags
  · rw [exec_aesAddrk hm hk hv hs, State.doArk_eq, TraceRecord.packet, TraceRecord.tag, TraceRecord.fields,
      numericField_sequencer, numericField_byte, List.append_assoc, List.append_assoc, List.append_assoc]
    rfl
  · rw [State.addRoundKey, AesState.get_xor, State.roundKey, AesState.get_ofCols]
    rfl

/-- Settles O37, through what `do_round()` leaves. -/
theorem aesRoundEffect : Obligations.AesRoundEffect := by
  refine ⟨packetF0_of_decode fun _ => rfl,
    fun s hm => ⟨fun hmissing => exec_sequenceFault hm rfl (not_ready_of_missing hmissing), fun hv hs hr => ?_⟩⟩
  have hdone : exec .aesRound s = .next (s.doRound.ok []) := exec_done hm rfl (firstFailure_of_holds ⟨hv, hs, hr⟩)
  rw [hdone, State.doRound_eq hr, sequencer_succ]
  rfl

/-- Settles O38: of the eleven rounds allowed, those that remain are performed. -/
theorem aesEncEffect : Obligations.AesEncEffect := by
  refine ⟨packetF0_of_decode fun _ => rfl,
    fun s hm => ⟨fun hmissing => exec_sequenceFault hm rfl (not_ready_of_missing hmissing), fun hv hs hr => ?_⟩⟩
  have hdone : exec .aesEnc s = .next ((State.runRounds 11 s).ok (State.runRounds 11 s).S.bytes) :=
    exec_done hm rfl (firstFailure_of_holds ⟨hv, hs, hr⟩)
  rw [hdone, State.runRounds_remaining hr, State.runRounds_eq _ (by omega), sequencer_add_remaining hr]
  rfl

/-- Settles O41: the three reads; the bytes of a block stand column by column. -/
theorem aesReadsEffect : Obligations.AesReadsEffect := by
  refine ⟨packetF0_of_decode fun _ => rfl, packetF1_of_decode fun _ => rfl, packetF1_of_decode fun _ => rfl,
    fun s k b hm => ?_⟩
  obtain ⟨hoperand, hsequence⟩ := exec_roundKey_faults (i := .aesRdrk k) hm rfl
  refine ⟨fun hv => ?noBlock, fun hv => ?block, hoperand, fun hk hs => hsequence hk (ne_true_of_eq_false hs),
    fun hk hs => ?roundKey, sbox b, exec_answered hm rfl, sbox_eq_nibbles b⟩
  case noBlock => exact exec_sequenceFault hm rfl (ne_true_of_eq_false hv)
  case block =>
    exact ⟨s.S.bytes, exec_done hm rfl (firstFailure_of_holds hv), s.S.bytes_length, s.S.bytes_getD⟩
  case roundKey => exact exec_done hm rfl ((firstFailure_of_holds hk).trans (firstFailure_of_holds hs))

/-- Settles O43: four moves of each row, and two exclusive-ors with one round key, cancel. -/
theorem aesTransformsThatRestoreTheState : Obligations.AesTransformsThatRestoreTheState := by
  refine fun s k hm hv => ⟨?shifted, fun hs hk => ?added⟩
  case shifted =>
    obtain ⟨t, hrun, hS⟩ := execAll_aesShiftrows 4 hm hv
    exact ⟨t, hrun, hS.trans (shiftRows_four s.S)⟩
  case added =>
    have hfirst := exec_aesAddrk hm hk hv hs
    have hsecond := exec_aesAddrk (s := (s.doArk k.toNat).ok []) hm hk hv hs
    exact ⟨_, (execAll_cons hfirst _).trans (execAll_cons hsecond []), s.S.xor_xor_cancel _⟩

/-- Settles O42, from the one check of the table that the entries are affine images of inverses. -/
theorem aesSboxIsAffineImageOfInverse : Obligations.AesSboxIsAffineImageOfInverse :=
  ⟨rfl, fun _ _ h => sbox_eq_sboxAffine h, fun b hb => ⟨_, sboxUnaffine_sbox_gfMul b hb⟩, fun _ _ => sbox_injective,
    sbox_ne_self⟩

end Sys2Proof.Machine
end

section
/-!
SUPPORT. The bit strings of the DES engine cut, joined and permuted, and its S-boxes and F-function with the chunks read
as integers (43_des.md R220 to R229).
-/

namespace Sys2Proof

open Sys2Proof.Claims

/-! ## Bit strings -/

theorem pads8_getD (A : List Byte) {i : Nat} (h : i < 8) : (pads8 A).getD i 0 = A.getD i 0x20 :=
  padTo_getD 8 0x20 A i h

/-- Position p of a loaded block or key: the data's own bit, or that of a space beyond its end (43_des.md R230, R231). -/
theorem unpack_pads8_getMsbD (data : List Byte) {p : Nat} (hp : p < 64) :
    (unpack (pads8 data) 64).getMsbD p = (data.getD (p / 8) 0x20).getMsbD (p % 8) := by
  rw [unpack_getMsbD _ _ _ (by simp) hp, pads8_getD data (by omega)]

/-- The two halves of a block joined are the block (43_des.md R233). -/
theorem substring_append_substring (X : BitVec 64) : substring X 1 32 ++ substring X 33 32 = X := by
  apply BitVec.eq_of_getMsbD_eq
  intro p hp
  rw [BitVec.getMsbD_append]
  split
  next hright =>
    rw [substring_getMsbD X 33 32 _ (by omega) (by omega) (by omega), show 33 - 1 + (p - 32) = p by omega]
  next hleft =>
    rw [substring_getMsbD X 1 32 _ (by omega) (by omega) (by omega), show 1 - 1 + p = p by omega]

/-- A permutation depends on no position but those its table names. -/
theorem permute_congr {n m : Nat} {T : List Nat} {X Y : BitVec n}
    (h : ∀ t ∈ T, X.getMsbD (t - 1) = Y.getMsbD (t - 1)) : permute m T X = permute m T Y := by
  rw [permute, permute, List.map_congr_left h]

@[simp] theorem tableIP_length : tableIP.length = 64 := rfl

@[simp] theorem tableFP_length : tableFP.length = 64 := rfl

@[simp] theorem tableE_length : tableE.length = 48 := rfl

@[simp] theorem tableP_length : tableP.length = 32 := rfl

/-- One permutation undoes another when the entry that its own entry names points back. -/
theorem permute_permute_cancel {n : Nat} {S T : List Nat} (hS : S.length = n) (hT : T.length = n)
    (h : ∀ i < n, T.getD i 0 - 1 < n ∧ S.getD (T.getD i 0 - 1) 0 - 1 = i) (X : BitVec n) :
    permute n T (permute n S X) = X := by
  apply BitVec.eq_of_getMsbD_eq
  intro i hi
  obtain ⟨hlt, hback⟩ := h i hi
  rw [permute_getMsbD T _ hT i hi, permute_getMsbD S X hS _ hlt, hback]

/-- A bit as a number is a binary digit of the whole. -/
theorem bitAt_eq {n : Nat} (X : BitVec n) {p : Nat} (h1 : 1 ≤ p) (hp : p ≤ n) :
    bitAt X p = X.toNat / 2 ^ (n - p) % 2 := by
  have hlt : p - 1 < n := by omega
  have hplace : n - 1 - (p - 1) = n - p := by omega
  rw [bitAt, BitVec.getMsbD, decide_eq_true hlt, Bool.true_and, hplace, BitVec.getLsbD, Nat.toNat_testBit]

/-! ## The S-boxes -/

/-- What holds of the members of a list and of the default holds of every look-up. -/
theorem getD_of_forall {α : Type} {P : α → Prop} {l : List α} {d : α} (h : ∀ x ∈ l, P x) (hd : P d) (i : Nat) :
    P (l.getD i d) := by
  by_cases hi : i < l.length
  · rw [List.getD_eq_getElem l d hi]
    exact h _ (List.getElem_mem hi)
  · rwa [List.getD_eq_default l d (Nat.le_of_not_lt hi)]

/-- An S-box entry has four bits (43_des.md R227). -/
theorem desBoxEntry_le (j row col : Nat) : desBoxEntry j row col ≤ 15 := by
  have htable : ∀ box ∈ desBoxes, ∀ entries ∈ box, ∀ x ∈ entries, x ≤ 15 := by decide
  have hbox := getD_of_forall (P := fun box => ∀ entries ∈ box, ∀ x ∈ entries, x ≤ 15) (d := []) htable (by simp)
    (j - 1)
  have hrow := getD_of_forall (P := fun entries => ∀ x ∈ entries, x ≤ 15) (d := []) hbox (by simp) row
  exact getD_of_forall hrow (Nat.zero_le 15) col

/-- The row, the column and the output of a lookup, from the chunk as an integer (43_des.md R228). -/
theorem desLookup_eq (j : Nat) (c : BitVec 6) :
    desLookup j c = ⟨c.toNat, chunkRow c.toNat, chunkCol c.toNat,
      desBoxEntry j (chunkRow c.toNat) (chunkCol c.toNat)⟩ := by
  have hrow : 2 * bitAt c 1 + bitAt c 6 = chunkRow c.toNat := by
    rw [bitAt_eq c (p := 1) (by omega) (by omega), bitAt_eq c (p := 6) (by omega) (by omega), chunkRow]
    omega
  have hcol : 8 * bitAt c 2 + 4 * bitAt c 3 + 2 * bitAt c 4 + bitAt c 5 = chunkCol c.toNat := by
    rw [bitAt_eq c (p := 2) (by omega) (by omega), bitAt_eq c (p := 3) (by omega) (by omega),
      bitAt_eq c (p := 4) (by omega) (by omega), bitAt_eq c (p := 5) (by omega) (by omega), chunkCol]
    omega
  rw [desLookup, hrow, hcol]

theorem desLookup_out_le (j : Nat) (c : BitVec 6) : (desLookup j c).out ≤ 15 := desBoxEntry_le j _ _

/-- The outer bits of a chunk operand give the row, the inner four the column (43_des.md R241). -/
theorem desLookup_setWidth_out (j : Nat) {v : Byte} (hv : v.toNat ≤ 63) :
    (desLookup j (v.setWidth 6)).out = desBoxEntry j (2 * (v.toNat / 32) + v.toNat % 2) (v.toNat / 2 % 16) := by
  have hchunk : (v.setWidth 6).toNat = v.toNat := by
    rw [BitVec.toNat_setWidth]
    omega
  have houter : v.toNat / 32 % 2 = v.toNat / 32 := by omega
  rw [desLookup_eq, hchunk, chunkRow, houter, chunkCol]

/-! ## The F-function -/

/-- Chunk j as an integer (43_des.md R229). -/
theorem chunk_toNat (X : BitVec 48) {j : Nat} (h1 : 1 ≤ j) (h8 : j ≤ 8) : (chunk X j).toNat = chunkValue X j := by
  have hplace : 48 + 1 - (6 * j - 5) - 6 = 48 - 6 * j := by omega
  rw [chunk, substring, BitVec.extractLsb'_toNat, hplace, Nat.shiftRight_eq_div_pow, chunkValue]

theorem lookupChunk_eq (X : BitVec 48) {j : Nat} (h1 : 1 ≤ j) (h8 : j ≤ 8) :
    lookupChunk X j = ⟨chunkValue X j, chunkRow (chunkValue X j), chunkCol (chunkValue X j),
      desBoxEntry j (chunkRow (chunkValue X j)) (chunkCol (chunkValue X j))⟩ := by
  rw [lookupChunk, desLookup_eq, chunk_toNat X h1 h8]

/-- The number whose n hexadecimal digits are f 1, ..., f n, the first the most significant. -/
def hexNumber (f : Nat → Nat) (n : Nat) : Nat := (List.range' 1 n).foldl (fun acc j => 16 * acc + f j) 0

theorem hexNumber_succ (f : Nat → Nat) (n : Nat) : hexNumber f (n + 1) = 16 * hexNumber f n + f (n + 1) := by
  rw [hexNumber, List.range'_1_concat, List.foldl_append, Nat.add_comm 1 n]
  rfl

section

variable {f : Nat → Nat} (hf : ∀ j, f j ≤ 15)

include hf

theorem hexNumber_lt (n : Nat) : hexNumber f n < 16 ^ n := by
  induction n with
  | zero => exact Nat.one_pos
  | succ n ih =>
    have hlast := hf (n + 1)
    rw [hexNumber_succ, Nat.pow_succ]
    omega

/-- Digit j of the number is f j. -/
theorem hexNumber_digit {j n : Nat} (h1 : 1 ≤ j) (hn : j ≤ n) : hexNumber f n / 16 ^ (n - j) % 16 = f j := by
  induction n with
  | zero => omega
  | succ n ih =>
    have hlast := hf (n + 1)
    rw [hexNumber_succ]
    rcases hn.eq_or_lt with rfl | hlt
    · rw [Nat.sub_self]
      omega
    · have hcut : (16 * hexNumber f n + f (n + 1)) / 16 = hexNumber f n := by omega
      rw [Nat.succ_sub (by omega), Nat.pow_succ', ← Nat.div_div_eq_div_mul, hcut, ih (by omega)]

end

/-- The 32 bits after the S-boxes are the eight outputs, four bits each (43_des.md R229). -/
theorem sboxBits_digit (X : BitVec 48) {j : Nat} (h1 : 1 ≤ j) (h8 : j ≤ 8) :
    (sboxBits X).toNat / 2 ^ (32 - 4 * j) % 16 = (lookupChunk X j).out := by
  have hout (j : Nat) : (lookupChunk X j).out ≤ 15 := desLookup_out_le j _
  have hvalue : (sboxBits X).toNat = hexNumber (fun j => (lookupChunk X j).out) 8 :=
    Nat.mod_eq_of_lt (hexNumber_lt hout 8)
  have hplace : 2 ^ (32 - 4 * j) = 16 ^ (8 - j) := by
    rw [show 32 - 4 * j = 4 * (8 - j) by omega, Nat.pow_mul]
  rw [hvalue, hplace, hexNumber_digit hout h1 h8]

/-- The eleven records of the F-function, from the chunks as integers (43_des.md R229). -/
theorem feistelRecords_eq (i : Nat) (r : BitVec 32) (key : BitVec 48) :
    feistelRecords i r key =
      let X := mixKey r key
      [.expand i r (permute 48 tableE r), .kxor i (permute 48 tableE r) key X] ++
        (List.range' 1 8).map (fun j => TraceRecord.sbox i j (chunkValue X j) (chunkRow (chunkValue X j))
          (chunkCol (chunkValue X j)) (desBoxEntry j (chunkRow (chunkValue X j)) (chunkCol (chunkValue X j)))) ++
        [.perm i (sboxBits X) (feistel r key)] := by
  rw [feistelRecords]
  congr 2
  refine List.map_congr_left fun j hj => ?_
  obtain ⟨h1, h9⟩ := List.mem_range'_1.1 hj
  rw [lookupChunk_eq _ h1 (by omega)]

end Sys2Proof
end

section
/-!
SUPPORT. What the key schedule of the DES engine leaves (43_des.md R224 to R226, R232), the rounds that DES.ENC performs,
and the `require` lines of the DES commands.
-/

namespace Sys2Proof

open Sys2Proof.Claims

/-! ## The key schedule -/

/-- A rotation by whole turns changes nothing. -/
theorem rol_of_dvd {n cnt : Nat} (X : BitVec n) (h : n ∣ cnt) : rol X cnt = X := by
  apply BitVec.eq_of_getMsbD_eq
  intro p hp
  rw [rol_getMsbD _ _ _ hp, Nat.add_mod, Nat.mod_eq_zero_of_dvd h, Nat.zero_add, Nat.mod_mod, Nat.mod_eq_of_lt hp]

theorem rotated_zero (half : BitVec 28) : rotated half 0 = half := rol_of_dvd half (dvd_zero 28)

/-- The rotations of all sixteen rounds add up to one turn (43_des.md R226). -/
theorem rotated_sixteen (half : BitVec 28) : rotated half 16 = half := rol_of_dvd half (by decide)

/-- The rotation of one more round accumulates (43_des.md R226, R232). -/
theorem rol_rotated (half : BitVec 28) {i : Nat} (hi : i < 16) :
    rol (rotated half i) (shifts (i + 1)) = rotated half (i + 1) := by
  have hsum : (shiftList.take (i + 1)).sum = (shiftList.take i).sum + shifts (i + 1) := by
    rw [List.sum_take_succ _ _ hi, shifts, Nat.add_sub_cancel, List.getD_eq_getElem shiftList 0 hi]
  rw [rotated, Machine.rol_rol, ← hsum, rotated]

/-- The parity bits of a key reach none of its round keys: `PC1` names no position that ends a byte (43_des.md R224). -/
theorem desKeyOf_congr {key key' : BitVec 64} (h : ∀ p < 64, p % 8 ≠ 7 → key.getMsbD p = key'.getMsbD p) (i : Nat) :
    desKeyOf key i = desKeyOf key' i := by
  have htable : ∀ t ∈ tablePC1, t - 1 < 64 ∧ (t - 1) % 8 ≠ 7 := by decide
  have hpermuted : permute 56 tablePC1 key = permute 56 tablePC1 key' := permute_congr fun t ht => by
    obtain ⟨hlt, hparity⟩ := htable t ht
    exact h _ hlt hparity
  simp only [desKeyOf, halfKey, hpermuted]

/-- Reading a round key after one round key was written. -/
theorem keyOf_setIfInBounds (K : Vector (BitVec 48) 16) (key : BitVec 48) {i j : Nat} (hi : i < 16) (hj : 1 ≤ j) :
    keyOf (K.setIfInBounds i key) j = if j = i + 1 then key else keyOf K j := by
  split
  next h => simp [keyOf, h, hi]
  next h => simp [keyOf, List.getElem?_set_ne (show i ≠ j - 1 by omega)]

/-- Key files with the same round keys 1 to 16 are the same. -/
theorem keyOf_ext {K K' : Vector (BitVec 48) 16} (h : ∀ i, 1 ≤ i → i ≤ 16 → keyOf K i = keyOf K' i) : K = K' :=
  Vector.ext fun j hj => by simpa [keyOf, hj] using h (j + 1) (by omega) (by omega)

/-- The two records of round i of the key schedule (43_des.md R232). -/
def scheduleRoundRecords (key : BitVec 64) (i : Nat) : List TraceRecord :=
  [.ksshift i (shifts i) (rotated (halfKey key 1) (i - 1)) (rotated (halfKey key 29) (i - 1))
     (rotated (halfKey key 1) i) (rotated (halfKey key 29) i),
   .pc2 i (rotated (halfKey key 1) i ++ rotated (halfKey key 29) i) (desKeyOf key i)]

/-- The records of the start of the key schedule and of its first n rounds (43_des.md R232). -/
def scheduleRecordsTo (key : BitVec 64) (n : Nat) : List TraceRecord :=
  .pc1 key (permute 56 tablePC1 key) (halfKey key 1) (halfKey key 29) ::
    (List.range' 1 n).flatMap (scheduleRoundRecords key)

theorem scheduleRecords_eq (key : BitVec 64) : scheduleRecords key = scheduleRecordsTo key 16 := rfl

theorem scheduleRecordsTo_succ (key : BitVec 64) (n : Nat) :
    scheduleRecordsTo key (n + 1) = scheduleRecordsTo key n ++ scheduleRoundRecords key (n + 1) := by
  rw [scheduleRecordsTo, List.range'_1_concat, List.flatMap_append, List.flatMap_singleton, Nat.add_comm 1 n]
  rfl

end Sys2Proof

namespace Sys2Proof.Machine

open Sys2Proof.Claims

/-- The start of the key schedule and its first n rounds leave the halves rotated n times, n round keys and the records
of these rounds (43_des.md R232). -/
theorem State.scheduleRounds_eq (s : State) {n : Nat} (hn : n ≤ 16) :
    ∃ keys : Vector (BitVec 48) 16, (∀ i, 1 ≤ i → i ≤ n → keyOf keys i = desKeyOf s.DK i) ∧
      (List.range' 1 n).foldl State.scheduleRound s.scheduleStart = { s with
        C := rotated (halfKey s.DK 1) n
        D := rotated (halfKey s.DK 29) n
        K := keys
        trc := s.trc ++ (scheduleRecordsTo s.DK n).map TraceRecord.packet } := by
  induction n with
  | zero =>
    refine ⟨s.K, fun i h1 h0 => by omega, ?_⟩
    rw [rotated_zero, rotated_zero]
    rfl
  | succ n ih =>
    obtain ⟨keys, hkeys, hrounds⟩ := ih (by omega)
    refine ⟨keys.setIfInBounds n (desKeyOf s.DK (n + 1)), fun i h1 hi => ?_, ?_⟩
    · rw [keyOf_setIfInBounds _ _ (by omega) h1]
      split
      next h => rw [h]
      next h => exact hkeys i h1 (by omega)
    · rw [List.range'_1_concat, List.foldl_append, hrounds, Nat.add_comm 1 n, List.foldl_cons, List.foldl_nil,
        State.scheduleRound_eq, rol_rotated _ (by omega), rol_rotated _ (by omega), scheduleRecordsTo_succ,
        List.map_append, ← List.append_assoc]
      rfl

/-- DES.KEYSCHED leaves the round keys of the key register and its halves where they began (43_des.md R232). -/
theorem exec_desKeysched {s : State} (hm : s.MODE = .run) (hv : s.DKV = true) :
    ∃ keys : Vector (BitVec 48) 16,
      exec .desKeysched s = .next (answered { s with
        C := halfKey s.DK 1
        D := halfKey s.DK 29
        K := keys
        DKSV := true
        trc := s.trc ++ (scheduleRecords s.DK).map TraceRecord.packet } []) ∧
      ∀ i, 1 ≤ i → i ≤ 16 → keyOf keys i = desKeyOf s.DK i := by
  obtain ⟨keys, hkeys, hrounds⟩ := s.scheduleRounds_eq le_rfl
  have hdone : exec .desKeysched s = .next (State.ok { s.scheduleKeys with DKSV := true } []) :=
    exec_done hm rfl (firstFailure_of_holds hv)
  rw [State.scheduleKeys, hrounds, rotated_sixteen, rotated_sixteen, ← scheduleRecords_eq] at hdone
  exact ⟨keys, hdone, hkeys⟩

/-! ## The rounds that remain -/

theorem add_one_eq_ofNat {w : Nat} (x : BitVec w) : x + 1 = BitVec.ofNat w (x.toNat + 1) := by
  rw [BitVec.ofNat_add, BitVec.ofNat_toNat, BitVec.setWidth_eq]
  rfl

/-- DES.ENC allows sixteen rounds and performs those that remain (43_des.md R236). -/
theorem State.runDrounds_remaining {s : State} (h1 : 1 ≤ s.DRND.toNat) :
    State.runDrounds 16 s = State.runDrounds (17 - s.DRND.toNat) s := by
  have hmore (m : Nat) (hm : 17 - s.DRND.toNat ≤ m) :
      State.runDrounds m s = State.runDrounds (17 - s.DRND.toNat) s := by
    induction m, hm using Nat.le_induction with
    | base => rfl
    | succ m hm ih => rw [State.runDrounds_enough m (by omega), ih]
  exact hmore 16 (by omega)

/-! ## The `require` lines -/

/-- A `require` line on a flag and more fails when the flag is 0 or the rest fails. -/
theorem not_and_of_missing {flag : Bool} {c : Prop} (h : flag = false ∨ ¬ c) : ¬ (flag = true ∧ c) := by
  rintro ⟨hflag, hc⟩
  rcases h with hflag' | hc'
  · exact Bool.false_ne_true (hflag'.symm.trans hflag)
  · exact hc' hc

/-- The sequencer's value, as the `require` lines and as the statements test it. -/
theorem drnd_toNat_eq_iff {r : BitVec 5} {n : Nat} (hn : n < 32) : r.toNat = n ↔ r = BitVec.ofNat 5 n := by
  rw [← BitVec.toNat_inj, BitVec.toNat_ofNat, Nat.mod_eq_of_lt hn]

theorem one_le_drnd_iff {r : BitVec 5} : 1 ≤ r.toNat ↔ r ≠ 0 :=
  Nat.one_le_iff_ne_zero.trans (drnd_toNat_eq_iff (by omega)).not

/-- A command that names a round key takes the operand fault for a number outside 1..16, before the sequence fault
(43_des.md R239, R240). -/
theorem exec_desKeyNumber_faults {i : Instr} {s done : State} {k : Byte} {c : Prop} [Decidable c] (hm : s.MODE = .run)
    (h : exec i s = command i s
      [require (1 ≤ k.toNat ∧ k.toNat ≤ Config.desRounds) .eOperand, require c .eSequence] done) :
    ((k.toNat = 0 ∨ 16 < k.toNat) → exec i s = .next (faultTaken s 3 i.opcode)) ∧
      (1 ≤ k.toNat → k.toNat ≤ 16 → ¬ c → exec i s = .next (faultTaken s 5 i.opcode)) := by
  refine ⟨fun hk => exec_faults hm h .eOperand (firstFailure_of_fails ?_), fun h1 h16 hc => ?_⟩
  · simp only [Config.desRounds]
    omega
  · exact exec_faults hm h .eSequence ((firstFailure_of_holds ⟨h1, h16⟩).trans (firstFailure_of_fails hc))

end Sys2Proof.Machine
end

section
/-!
PROOFS. The DES engine (43_des.md R220 to R241).
-/

namespace Sys2Proof.Machine

open Sys2Proof.Claims

/-- Settles O44: both registers take the padded data position by position. -/
theorem desLoadsEffect : Obligations.DesLoadsEffect :=
  ⟨fun _ => rfl, fun _ => rfl, fun _ data hm => ⟨unpack (pads8 data) 64, fun _ hp => unpack_pads8_getMsbD data hp,
    exec_done hm rfl firstFailure_nil, exec_done hm rfl firstFailure_nil⟩⟩

/-- Settles O45, by what the sixteen rounds of the key schedule leave. -/
theorem desKeyschedEffect : Obligations.DesKeyschedEffect :=
  ⟨packetF0_of_decode fun _ => rfl, fun _ hm =>
    ⟨fun hv => exec_sequenceFault hm rfl (ne_true_of_eq_false hv), fun hv => exec_desKeysched hm hv⟩⟩

/-- Settles O46: both key files hold the round keys of keys that differ only in parity bits. -/
theorem desKeyParityBitsAreIgnored : Obligations.DesKeyParityBitsAreIgnored := by
  intro s t s' t' hs ht hsv htv hkey hs' ht'
  obtain ⟨keys, hdone, hkeys⟩ := exec_desKeysched hs hsv
  obtain ⟨keys', hdone', hkeys'⟩ := exec_desKeysched ht htv
  obtain rfl := Host.Outcome.next.inj (hdone.symm.trans hs')
  obtain rfl := Host.Outcome.next.inj (hdone'.symm.trans ht')
  refine keyOf_ext (K := keys) (K' := keys') fun i h1 h16 => ?_
  rw [hkeys i h1 h16, hkeys' i h1 h16, desKeyOf_congr hkey]

/-- Settles O47: each of the two tables names for a position the place where the other one puts it. -/
theorem desFinalPermutationInvertsInitial : Obligations.DesFinalPermutationInvertsInitial := by
  have hback : ∀ i < 64, tableFP.getD i 0 - 1 < 64 ∧ tableIP.getD (tableFP.getD i 0 - 1) 0 - 1 = i := by decide
  have hforth : ∀ i < 64, tableIP.getD i 0 - 1 < 64 ∧ tableFP.getD (tableIP.getD i 0 - 1) 0 - 1 = i := by decide
  exact ⟨fun X => ⟨permute_permute_cancel tableIP_length tableFP_length hback X,
    permute_permute_cancel tableFP_length tableIP_length hforth X⟩, by decide +kernel⟩

/-- Settles O48: the `require` line of each, then the position that its table names. -/
theorem desIpAndFpEffect : Obligations.DesIpAndFpEffect := by
  refine ⟨packetF0_of_decode fun _ => rfl, packetF0_of_decode fun _ => rfl, fun s hm =>
    ⟨fun hmissing => ?noIp, fun hv h0 => ?ip, fun hmissing => ?noFp, fun hv h17 => ?fp⟩⟩
  case noIp =>
    exact exec_sequenceFault hm rfl (not_and_of_missing (hmissing.imp_right (drnd_toNat_eq_iff (by omega)).not.2))
  case ip =>
    have hhalves := substring_append_substring (permute 64 tableIP s.DB)
    refine ⟨substring (permute 64 tableIP s.DB) 1 32, substring (permute 64 tableIP s.DB) 33 32, ?_, fun p hp => ?_⟩
    · rw [hhalves]
      exact exec_done hm rfl (firstFailure_of_holds ⟨hv, (drnd_toNat_eq_iff (by omega)).2 h0⟩)
    · rw [hhalves, permute_getMsbD tableIP _ tableIP_length p hp]
  case noFp =>
    exact exec_sequenceFault hm rfl (not_and_of_missing (hmissing.imp_right (drnd_toNat_eq_iff (by omega)).not.2))
  case fp =>
    exact ⟨permute 64 tableFP (s.R ++ s.L),
      exec_done hm rfl (firstFailure_of_holds ⟨hv, (drnd_toNat_eq_iff (by omega)).2 h17⟩),
      permute_getMsbD tableFP _ tableFP_length⟩

/-- Settles O49, with X the mixed string and B the bits of the S-boxes' outputs. -/
theorem desFFunctionValue : Obligations.DesFFunctionValue := by
  refine fun r key => ⟨mixKey r key, sboxBits (mixKey r key), fun p hp => ?mixed, fun j h1 h8 => ?looked,
    permute_getMsbD tableP _ tableP_length, fun i => feistelRecords_eq i r key⟩
  case mixed =>
    rw [mixKey, xorbits, BitVec.getMsbD_xor, expandR, permute_getMsbD tableE r tableE_length p hp]
  case looked =>
    rw [sboxBits_digit _ h1 h8, lookupChunk_eq _ h1 h8]

/-- Settles O50, through what `do_dround()` leaves. -/
theorem desRoundEffect : Obligations.DesRoundEffect := by
  refine ⟨packetF0_of_decode fun _ => rfl, fun s hm => ⟨fun hmissing => ?fault, fun hv hk h1 h16 => ?round⟩⟩
  case fault =>
    have hrange (hr : s.DRND.toNat = 0 ∨ 16 < s.DRND.toNat) : ¬ (1 ≤ s.DRND.toNat ∧ s.DRND.toNat ≤ 16) := by omega
    exact exec_sequenceFault hm rfl
      (not_and_of_missing (hmissing.imp_right fun h => not_and_of_missing (h.imp_right hrange)))
  case round =>
    have hready : s.DesReady := ⟨hm, hv, hk⟩
    rw [hready.exec_desRound h1 h16, State.doDround_eq, add_one_eq_ofNat]
    simp only [feistelTrace, List.append_nil]
    rfl

/-- Settles O51: of the sixteen rounds allowed, those that remain are performed. -/
theorem desEncEffect : Obligations.DesEncEffect := by
  refine ⟨packetF0_of_decode fun _ => rfl, fun s hm => ⟨fun hmissing => ?fault, fun hv hk hr => ?enc⟩⟩
  case fault =>
    exact exec_sequenceFault hm rfl
      (not_and_of_missing (hmissing.imp_right fun h => not_and_of_missing (h.imp_right Nat.not_le.2)))
  case enc =>
    have hready : s.DesReady := ⟨hm, hv, hk⟩
    by_cases h0 : s.DRND = 0
    · have hzero : s.DRND.toNat = 0 := (drnd_toNat_eq_iff (by omega)).2 h0
      have hone : s.initialPermutation.DRND.toNat = 1 := rfl
      rw [hready.exec_desEnc hr (if_pos hzero), State.finishDes_eq 16 (by omega), hone, State.initialPermutation_eq]
      simp only [if_pos h0, List.map_append, List.append_assoc]
      rfl
    · have h1 : 1 ≤ s.DRND.toNat := one_le_drnd_iff.2 h0
      rw [hready.exec_desEnc hr (if_neg (by omega)), State.runDrounds_remaining h1, State.finishDes_eq _ (by omega)]
      simp only [if_neg h0]
      rfl

/-- Settles O54: the bytes of each read spell the positions of the register. -/
theorem desReadsEffect : Obligations.DesReadsEffect := by
  refine ⟨packetF0_of_decode fun _ => rfl, packetF0_of_decode fun _ => rfl, packetF1_of_decode fun _ => rfl,
    fun s i hm => ?_⟩
  obtain ⟨hoperand, hsequence⟩ := exec_desKeyNumber_faults (i := .desRdrk i) hm rfl
  refine ⟨fun hv => ?noBlock, fun hv => ?block, fun hmissing => ?noHalves, fun hv h0 => ?halves, hoperand,
    fun h1 h16 hk => hsequence h1 h16 (ne_true_of_eq_false hk), fun h1 h16 hk => ?roundKey⟩
  case noBlock => exact exec_sequenceFault hm rfl (ne_true_of_eq_false hv)
  case block => exact ⟨_, exec_done hm rfl (firstFailure_of_holds hv), pack_spellsBits s.DB⟩
  case noHalves =>
    exact exec_sequenceFault hm rfl (not_and_of_missing (hmissing.imp_right one_le_drnd_iff.not_left.2))
  case halves =>
    refine ⟨_, exec_done hm rfl (firstFailure_of_holds ⟨hv, one_le_drnd_iff.2 h0⟩), pack_spellsBits_of_eq fun p _ => ?_⟩
    simp only [BitVec.getMsbD_append, ← Nat.not_lt, ite_not]
  case roundKey =>
    exact ⟨_, exec_done hm rfl ((firstFailure_of_holds ⟨h1, h16⟩).trans (firstFailure_of_holds hk)),
      pack_spellsBits (keyOf s.K i.toNat)⟩

/-- Settles O55: the operand before the flags and the sequencer, then the value and the records of the F-function. -/
theorem desFEffect : Obligations.DesFEffect := by
  refine ⟨packetF1_of_decode fun _ => rfl, fun s i hm => ?_⟩
  obtain ⟨hoperand, hsequence⟩ := exec_desKeyNumber_faults (i := .desF i) hm rfl
  refine ⟨hoperand, fun h1 h16 hmissing => hsequence h1 h16 ?_, fun h1 h16 hv hk h0 => ?_⟩
  · exact not_and_of_missing (hmissing.imp_right fun h =>
      not_and_of_missing (h.imp_right one_le_drnd_iff.not_left.2))
  · refine ⟨pack (feistel s.R (keyOf s.K i.toNat)), _, exec_done hm rfl ?_, pack_spellsBits _, ?_, rfl⟩
    · exact (firstFailure_of_holds ⟨h1, h16⟩).trans (firstFailure_of_holds ⟨hv, hk, one_le_drnd_iff.2 h0⟩)
    · rw [List.length_map, feistelRecords_length]

/-- Settles O56, through the chunk as an integer. -/
theorem desSboxEffect : Obligations.DesSboxEffect := by
  refine ⟨packetF2_of_decode fun _ => rfl, fun s j v hm => ⟨fun hbad => ?operand, fun h1 h8 hv => ?looked⟩⟩
  case operand => exact exec_faults hm rfl .eOperand (firstFailure_of_fails (by omega))
  case looked =>
    have hle := desLookup_out_le j.toNat (v.setWidth 6)
    have hout : (BitVec.ofNat 8 (desLookup j.toNat (v.setWidth 6)).out).toNat =
        (desLookup j.toNat (v.setWidth 6)).out := by
      rw [BitVec.toNat_ofNat]
      omega
    exact ⟨_, exec_done hm rfl (firstFailure_of_holds ⟨⟨h1, h8⟩, hv⟩), hout.trans_le hle,
      hout.trans (desLookup_setWidth_out _ hv)⟩

end Sys2Proof.Machine
end

section
/-!
SUPPORT. The status bytes SR0 and SR3 to SR5 as integers (44_system.md R273): each field of 10_state.md R36 counts with
the weight of its lowest bit.
-/

namespace Sys2Proof.Machine

/-- Concatenation places its first string above the second. -/
theorem toNat_append_eq_add {n m : Nat} (x : BitVec n) (y : BitVec m) :
    (x ++ y).toNat = 2 ^ m * x.toNat + y.toNat := by
  rw [BitVec.toNat_append, ← Nat.shiftLeft_add_eq_or_of_lt y.isLt, Nat.shiftLeft_eq, Nat.mul_comm]

theorem State.sr0_toNat (s : State) : s.sr0.toNat = if s.MODE = .faulted then 1 else 0 := by
  cases hm : s.MODE with
  | run => rw [State.sr0, hm]; rfl
  | faulted => rw [State.sr0, hm]; rfl

theorem State.sr3_toNat (s : State) :
    s.sr3.toNat = 128 * s.ASV.toNat + 64 * s.AKV.toNat + 32 * s.AKSV.toNat + s.ARND.toNat := by
  simp only [State.sr3, toNat_append_eq_add, BitVec.toNat_ofBool, BitVec.toNat_zero]
  omega

theorem State.sr4_toNat (s : State) :
    s.sr4.toNat = 128 * s.DBV.toNat + 64 * s.DKV.toNat + 32 * s.DKSV.toNat + s.DRND.toNat := by
  simp only [State.sr4, toNat_append_eq_add, BitVec.toNat_ofBool]
  omega

theorem State.sr5_toNat (s : State) : s.sr5.toNat = s.PTLEN.toNat := by
  rw [State.sr5, toNat_append_eq_add, BitVec.toNat_zero, Nat.mul_zero, Nat.zero_add]

end Sys2Proof.Machine
end

section
/-!
PROOFS. The system commands (44_system.md R271 to R273).
-/

namespace Sys2Proof.Machine

open Sys2Proof.Claims

/-- Settles O24: only SYS.NOP meets the mode test, and each status byte is the sum of its weighted fields. -/
theorem sysCommandsEffect : Obligations.SysCommandsEffect :=
  ⟨packetF0_of_decode fun _ => rfl, packetF0_of_decode fun _ => rfl, packetF0_of_decode fun _ => rfl, fun s =>
    ⟨fun hm => exec_answered hm rfl, fun hm => command_refused hm, rfl,
      s.sr0, s.sr3, s.sr4, s.sr5, rfl, s.sr0_toNat, s.sr3_toNat, s.sr4_toNat, s.sr5_toNat⟩⟩

end Sys2Proof.Machine
end

section
/-!
SUPPORT. What enters, keeps and leaves FAULTED mode (60_exceptions.md R281 to R291), said once: the codes of the
decoder, the two packets that FAULTED mode executes, the step that refuses any other, and the one way of each mode
change.
-/

namespace Sys2Proof.Machine

open Sys2Proof.Claims

/-! ## Codes and packets -/

/-- The decoder answers two codes, and for the empty packet only `E_FORMAT` (30_encoding.md R114). -/
theorem decode_error_cases {pkt : Packet} {code : FaultCode} (h : decode pkt = .error code) :
    (code = .eOpcode ∧ pkt ≠ []) ∨ code = .eFormat := by
  cases pkt with
  | nil =>
    cases h
    exact .inr rfl
  | cons op args =>
    have hr := decode_reads op args
    rw [h] at hr
    cases hr with
    | formatFault => exact .inr rfl
    | illegal => exact .inl ⟨rfl, List.cons_ne_nil op args⟩

theorem decode_eq_sysReset_iff (pkt : Packet) : decode pkt = .ok .sysReset ↔ pkt = [0x01] :=
  ⟨fun h => (encode_of_decode h).2.symm, fun h => h ▸ decode_encode .sysReset rfl⟩

theorem decode_eq_sysRdstat_iff (pkt : Packet) : decode pkt = .ok .sysRdstat ↔ pkt = [0x02] :=
  ⟨fun h => (encode_of_decode h).2.symm, fun h => h ▸ decode_encode .sysRdstat rfl⟩

/-- The first byte of a packet that decodes is the opcode byte of its command (30_encoding.md R110). -/
theorem headD_of_decode {pkt : Packet} {i : Instr} (h : decode pkt = .ok i) : pkt.headD 0x00 = i.opcode :=
  (encode_of_decode h).2 ▸ rfl

theorem headD_eq_dite_head (pkt : Packet) : pkt.headD 0x00 = if h : pkt = [] then 0x00 else pkt.head h := by
  cases pkt with
  | nil => rfl
  | cons op args => simp

theorem FaultCode.one_le_toByte {code : FaultCode} (h : code ≠ .eFaulted) : 1 ≤ (FaultCode.toByte code).toNat :=
  Nat.one_le_iff_ne_zero.mpr fun h0 => (FaultCode.toByte_recorded h).1 (BitVec.eq_of_toNat_eq h0)

/-! ## Fault entry and refusal, in the statements' own terms -/

theorem State.takeFault_eq_faultTaken (s : State) (code : FaultCode) (op : Byte) :
    s.takeFault code op = faultTaken s (FaultCode.toByte code) op := rfl

theorem State.refuseFaulted_eq (s : State) : s.refuseFaulted = { s with rsp := s.rsp ++ [[0x07]] } := rfl

/-! ## A packet that is no command -/

section

variable {s : State} {pkt : Packet} {rest : List Packet} {code : FaultCode}

theorem step_rejects_run (hr : s.rstN = true) (hc : s.cmd = pkt :: rest) (hd : decode pkt = .error code)
    (hm : s.MODE = .run) : step s = .next (State.takeFault { s with cmd := rest } code (pkt.headD 0x00)) :=
  (step_rejects hr hc hd).trans (congrArg _ (State.fail_run (s := { s with cmd := rest }) hm code _))

theorem step_rejects_faulted (hr : s.rstN = true) (hc : s.cmd = pkt :: rest) (hd : decode pkt = .error code)
    (hm : s.MODE = .faulted) : step s = .next (State.refuseFaulted { s with cmd := rest }) :=
  (step_rejects hr hc hd).trans (congrArg _ (State.fail_faulted (s := { s with cmd := rest }) hm code _))

end

/-! ## FAULTED mode -/

/-- In FAULTED mode every command but SYS.RESET and SYS.RDSTAT is refused (60_exceptions.md R286). -/
theorem exec_refused {i : Instr} {s : State} (hm : s.MODE = .faulted) (h1 : i ≠ .sysReset) (h2 : i ≠ .sysRdstat) :
    exec i s = .next s.refuseFaulted := by
  obtain ⟨checks, done, hexec⟩ := exec_command i s h1 h2
  rw [hexec, command_refused hm]

/-- In FAULTED mode every packet but `[01]` and `[02]` is refused, whether it decodes or not (60_exceptions.md R286). -/
theorem step_refused {s : State} {pkt : Packet} {rest : List Packet} (hr : s.rstN = true) (hc : s.cmd = pkt :: rest)
    (hm : s.MODE = .faulted) (h1 : pkt ≠ [0x01]) (h2 : pkt ≠ [0x02]) :
    step s = .next (State.refuseFaulted { s with cmd := rest }) := by
  cases hd : decode pkt with
  | ok i =>
    rw [step_executes hr hc hd]
    refine exec_refused hm ?_ ?_
    · rintro rfl
      exact h1 ((decode_eq_sysReset_iff pkt).mp hd)
    · rintro rfl
      exact h2 ((decode_eq_sysRdstat_iff pkt).mp hd)
  | error code => exact step_rejects_faulted hr hc hd hm

/-- The packet `[02]` is answered in every mode and leaves the registers alone (44_system.md R273). -/
theorem step_sysRdstat {s : State} {rest : List Packet} (hr : s.rstN = true) (hc : s.cmd = [0x02] :: rest) :
    step s = .next (State.ok { s with cmd := rest } s.statusBytes) :=
  step_executes hr hc ((decode_eq_sysRdstat_iff _).mpr rfl)

/-! ## RUN mode -/

/-- A command that completes in RUN mode stays there (60_exceptions.md R291). -/
theorem Completes.mode_run {s t : State} {i : Instr} (h : Completes s i t) (hs : s.MODE = .run) : t.MODE = .run :=
  h.mode.elim (fun hm => hm.trans hs) id

/-- A command that completes leaves the recorded code, which only SYS.RESET clears (60_exceptions.md R287). -/
theorem Completes.errcode {s t : State} {i : Instr} (h : Completes s i t) :
    t.ERRCODE = if i = .sysReset then 0 else s.ERRCODE := by
  cases h with
  | sysReset => rfl
  | onlyAnswers _ hi | aesTransform _ _ hi =>
    refine (if_neg ?_).symm
    rintro rfl
    exact Bool.false_ne_true hi
  | _ => exact (if_neg nofun).symm

/-- A command that completes gives one response, with the status 00 (20_memory.md R68). -/
theorem Completes.rsp {s t : State} {i : Instr} (h : Completes s i t) :
    ∃ result, t.rsp = s.rsp ++ [0x00 :: result] := by
  cases h with
  | _ => exact ⟨_, rfl⟩

/-- In RUN mode a command completes or takes one fault of a code that is recorded (60_exceptions.md R283, R284). -/
theorem exec_run_cases {i : Instr} {s t : State} (hs : s.MODE = .run) (h : exec i s = .next t) :
    Completes s i t ∨ ∃ code, code ≠ .eFaulted ∧ t = s.takeFault code i.opcode := by
  rcases exec_cases h with ⟨hm, -⟩ | ⟨-, hfault⟩ | hdone
  · exact nomatch hs.symm.trans hm
  · exact .inr hfault
  · exact .inl hdone

/-- The one way from RUN to FAULTED: a packet is taken, and the fault of its command or of the decoder is recorded with
its first byte (60_exceptions.md R283, R291). -/
theorem step_enters_faulted {s t : State} (h : step s = .next t) (hs : s.MODE = .run) (ht : t.MODE = .faulted) :
    ∃ pkt rest code, s.cmd = pkt :: rest ∧ code ≠ .eFaulted ∧
      t = State.takeFault { s with cmd := rest } code (pkt.headD 0x00) := by
  by_cases hr : s.rstN = false
  · rw [step_held hr] at h
    cases h
    exact nomatch ht
  have hr : s.rstN = true := by simpa using hr
  cases hc : s.cmd with
  | nil =>
    rw [step_waits hr hc] at h
    cases h
    exact nomatch hs.symm.trans ht
  | cons pkt rest =>
    cases hd : decode pkt with
    | ok i =>
      rw [step_executes hr hc hd] at h
      rcases exec_run_cases (s := { s with cmd := rest }) hs h with hdone | ⟨code, hcode, hfault⟩
      · exact nomatch (hdone.mode_run hs).symm.trans ht
      · exact ⟨pkt, rest, code, rfl, hcode, headD_of_decode hd ▸ hfault⟩
    | error code =>
      rw [step_rejects_run hr hc hd hs] at h
      cases h
      exact ⟨pkt, rest, code, rfl, fun he => decode_ne_eFaulted pkt (he ▸ hd), rfl⟩

/-- The one way from FAULTED to RUN: a low `rst_n`, or the packet `[01]` (60_exceptions.md R287, R291). -/
theorem step_leaves_faulted {s t : State} (h : step s = .next t) (hs : s.MODE = .faulted) (ht : t.MODE = .run) :
    s.rstN = false ∨ ∃ rest, s.cmd = [0x01] :: rest := by
  by_cases hr : s.rstN = false
  · exact .inl hr
  have hr : s.rstN = true := by simpa using hr
  cases hc : s.cmd with
  | nil =>
    rw [step_waits hr hc] at h
    cases h
    exact nomatch hs.symm.trans ht
  | cons pkt rest =>
    by_cases h1 : pkt = [0x01]
    · exact .inr ⟨rest, h1 ▸ rfl⟩
    have hkept : t.MODE = s.MODE := by
      by_cases h2 : pkt = [0x02]
      · rw [step_sysRdstat hr (h2 ▸ hc)] at h
        cases h
        rfl
      · rw [step_refused hr hc hs h1 h2] at h
        cases h
        rfl
    exact nomatch (hkept.trans hs).symm.trans ht

end Sys2Proof.Machine
end

section
/-!
PROOFS. The family of 60_exceptions.md: fault entry, FAULTED mode, the changes of the mode, and the precision of faults.
-/

namespace Sys2Proof.Machine

open Sys2Proof.Claims

/-- Settles O2: in RUN mode a packet that does not decode is rejected with the decoder's fault. -/
theorem undecodablePacketTakesFault : Obligations.UndecodablePacketTakesFault := by
  intro s pkt rest code hr hc hm hd
  have hstep : step s = .next (faultTaken { s with cmd := rest } (FaultCode.toByte code) (pkt.headD 0x00)) :=
    step_rejects_run hr hc hd hm
  rw [headD_eq_dite_head] at hstep
  rcases decode_error_cases hd with ⟨rfl, hne⟩ | rfl
  · exact ⟨.inl rfl, fun h => absurd h hne, _, hstep, rfl, rfl⟩
  · exact ⟨.inr rfl, fun _ => rfl, _, hstep, rfl, rfl⟩

/-- Settles O3: the packets `[01]` and `[02]` execute, and any other one is refused. -/
theorem faultedModeExecutesOnlyResetAndStatus : Obligations.FaultedModeExecutesOnlyResetAndStatus := by
  intro s pkt rest hr hc hm
  by_cases h1 : pkt = [0x01]
  · have hreset : step s = .next (State.ok (State.resetRegisters { s with cmd := rest }) []) :=
      step_executes hr hc ((decode_eq_sysReset_iff pkt).mpr h1)
    rw [if_pos h1, hreset, State.resetRegisters, hr]
    rfl
  rw [if_neg h1]
  by_cases h2 : pkt = [0x02]
  · rw [if_pos h2, step_sysRdstat hr (h2 ▸ hc)]
    rfl
  · rw [if_neg h2, step_refused hr hc hm h1 h2, State.refuseFaulted_eq]

/-- Settles O4: the 34 commands go through the mode test. -/
theorem otherCommandsRefusedWhenFaulted : Obligations.OtherCommandsRefusedWhenFaulted :=
  fun _ s hm h1 h2 => (exec_refused hm h1 h2).trans (congrArg _ s.refuseFaulted_eq)

/-- Settles O5, by the one way in each direction. -/
theorem modeChangesOnlyByFaultAndReset : Obligations.ModeChangesOnlyByFaultAndReset := by
  intro s t h
  refine ⟨step_leaves_faulted h, fun hs ht => ?_⟩
  obtain ⟨pkt, rest, code, hc, hcode, rfl⟩ := step_enters_faulted h hs ht
  exact ⟨pkt, rest, hc, FaultCode.one_le_toByte hcode, (FaultCode.toByte_recorded hcode).2, rfl, rfl⟩

/-- Settles O9: a command in RUN mode completes, or its state is that of fault entry. -/
theorem faultsArePreciseForEveryCommand : Obligations.FaultsArePreciseForEveryCommand := by
  intro i s t hs h
  rcases exec_run_cases hs h with hdone | ⟨code, hcode, hfault⟩
  · exact .inl ⟨hdone.mode_run hs, hdone.errcode, hdone.rsp⟩
  · exact .inr ⟨FaultCode.toByte code, FaultCode.one_le_toByte hcode, (FaultCode.toByte_recorded hcode).2,
      hfault.trans (s.takeFault_eq_faultTaken code i.opcode)⟩

end Sys2Proof.Machine
end

section
/-!
SUPPORT. The units of the engine kept apart (70_reset_and_hazards.md R313): which registers a command of another unit
leaves alone, and the part of the state that an AES or a DES command works in. Taking that part commutes with every
operation of the engine, so that such a command does the same whatever stands outside it.
-/

namespace Sys2Proof.Machine

open Sys2Proof.Claims

/-! ## What a command of another unit leaves alone -/

theorem unitOf_of_transformsAesState {i : Instr} (h : i.transformsAesState = true) : unitOf i = 3 := by
  cases i with
  | aesSubbytes | aesShiftrows | aesMixcols | aesAddrk => simp [unitOf, Instr.opcode]
  | _ => exact absurd h Bool.false_ne_true

theorem State.SameAes.refl (s : State) : s.SameAes s := ⟨rfl, rfl, rfl, rfl, rfl, rfl⟩

theorem State.SameDes.refl (s : State) : s.SameDes s := ⟨rfl, rfl, rfl, rfl, rfl, rfl, rfl, rfl, rfl, rfl, rfl⟩

theorem State.SameTable.refl (s : State) : s.SameTable s := ⟨rfl, rfl⟩

section

variable {s t : State} {i : Instr}

theorem Completes.sameAes (h : Completes s i t) (hreset : i ≠ .sysReset) (hu : unitOf i ≠ 3) : s.SameAes t := by
  cases h with
  | sysReset => exact absurd rfl hreset
  | aesTransform x ts hi => exact absurd (unitOf_of_transformsAesState hi) hu
  | aesLdblk | aesLdkey | aesKeyexp | aesRound | aesEnc => exact absurd (by simp [unitOf, Instr.opcode]) hu
  | _ => exact .refl s

theorem Completes.sameDes (h : Completes s i t) (hreset : i ≠ .sysReset) (hu : unitOf i ≠ 4) : s.SameDes t := by
  cases h with
  | sysReset => exact absurd rfl hreset
  | desLdblk | desLdkey | desKeysched | desIp | desRound | desFp | desEnc =>
    exact absurd (by simp [unitOf, Instr.opcode]) hu
  | _ => exact .refl s

theorem Completes.sameTable (h : Completes s i t) (hreset : i ≠ .sysReset) (hu : ∀ es, i ≠ .bvLdt es) :
    s.SameTable t := by
  cases h with
  | sysReset => exact absurd rfl hreset
  | bvLdt entries => exact absurd rfl (hu entries)
  | _ => exact .refl s

/-- A refusal and a fault write no register of any unit; a command that completes writes those of its own. -/
theorem exec_keeps_otherUnits (hreset : i ≠ .sysReset) (h : exec i s = .next t) :
    (unitOf i ≠ 3 → s.SameAes t) ∧ (unitOf i ≠ 4 → s.SameDes t) ∧ ((∀ es, i ≠ .bvLdt es) → s.SameTable t) := by
  rcases exec_cases h with ⟨-, rfl⟩ | ⟨-, code, -, rfl⟩ | hdone
  · exact ⟨fun _ => .refl s, fun _ => .refl s, fun _ => .refl s⟩
  · exact ⟨fun _ => .refl s, fun _ => .refl s, fun _ => .refl s⟩
  · exact ⟨hdone.sameAes hreset, hdone.sameDes hreset, hdone.sameTable hreset⟩

end

/-! ## A part of the state that a command works in -/

/-- Taking the part keeps the mode, and commutes with the refusal and with a fault. -/
structure State.KeepsStatus (part : State → State) : Prop where
  mode : ∀ s, (part s).MODE = s.MODE
  refuseFaulted : ∀ s, part s.refuseFaulted = (part s).refuseFaulted
  takeFault : ∀ s code op, part (s.takeFault code op) = (part s).takeFault code op

/-- The command i, run on a part of the state, leaves that part of what it leaves on the whole state. -/
def WorksIn (i : Instr) (part : State → State) : Prop :=
  ∀ s s' : State, exec i s = .next s' → exec i (part s) = .next (part s')

/-- A command whose effect on the part is the part of its effect, under `require` lines that read only the part. -/
theorem command_part {part : State → State} (hpart : State.KeepsStatus part) {i : Instr} {s done done' s' : State}
    {checks : List (Bool × FaultCode)} (h : command i s checks done = .next s') (hdone : part done = done') :
    command i (part s) checks done' = .next (part s') := by
  rcases command_cases h with ⟨hm, rfl⟩ | ⟨hm, code, hc, rfl⟩ | ⟨hm, hc, rfl⟩
  · rw [command_refused ((hpart.mode s).trans hm), hpart.refuseFaulted]
  · rw [command_fails ((hpart.mode s).trans hm) hc, hpart.takeFault]
  · rw [command_done ((hpart.mode s).trans hm) hc, hdone]

/-- Two states that agree on the part a command works in agree on it afterwards. -/
theorem WorksIn.agree {i : Instr} {part : State → State} (hi : WorksIn i part) {s t s' t' : State}
    (hs : exec i s = .next s') (ht : exec i t = .next t') (h : part s = part t) : part s' = part t' :=
  Host.Outcome.next.inj ((hi s s' hs).symm.trans (h ▸ hi t t' ht))

/-! ## The AES part -/

/-- The AES registers, the status and the output streams; everything else as after reset. -/
def State.aesPart (s : State) : State :=
  { State.reset with
    S := s.S, W := s.W, ARND := s.ARND, ASV := s.ASV, AKV := s.AKV, AKSV := s.AKSV
    MODE := s.MODE, ERRCODE := s.ERRCODE, ERROP := s.ERROP, rsp := s.rsp, trc := s.trc }

theorem State.aesPart_eq_iff (s t : State) :
    s.aesPart = t.aesPart ↔ s.SameAes t ∧ s.SameStatus t ∧ s.rsp = t.rsp ∧ s.trc = t.trc := by
  simp [State.aesPart, State.SameAes, State.SameStatus, and_assoc]

theorem State.keepsStatus_aesPart : State.KeepsStatus State.aesPart := ⟨fun _ => rfl, fun _ => rfl, fun _ _ _ => rfl⟩

theorem State.expandKey_aesPart (s : State) : s.expandKey.aesPart = s.aesPart.expandKey :=
  (List.foldl_hom State.aesPart fun _ _ => rfl).symm

theorem State.roundSteps_aesPart (s : State) (r : Nat) : (s.roundSteps r).aesPart = s.aesPart.roundSteps r := by
  unfold State.roundSteps
  split
  · rfl
  · split <;> rfl

theorem State.doRound_aesPart (s : State) : s.doRound.aesPart = s.aesPart.doRound := by
  unfold State.doRound
  dsimp only
  rw [show s.aesPart.ARND = s.ARND from rfl, ← State.roundSteps_aesPart]
  exact apply_ite State.aesPart _ _ _

theorem State.runRounds_aesPart (n : Nat) (s : State) :
    (State.runRounds n s).aesPart = State.runRounds n s.aesPart := by
  induction n generalizing s with
  | zero => rfl
  | succ n ih =>
    unfold State.runRounds
    rw [← State.doRound_aesPart, ← ih]
    exact apply_ite State.aesPart _ _ _

theorem worksIn_aesPart {i : Instr} (hu : unitOf i = 3) : WorksIn i State.aesPart := by
  intro s s' h
  have hkeep := State.keepsStatus_aesPart
  cases i with
  | aesLdblk | aesLdkey | aesSubbytes | aesShiftrows | aesMixcols | aesAddrk | aesRdblk | aesRdrk | aesSbox =>
    exact command_part hkeep h rfl
  | aesKeyexp =>
    refine command_part hkeep h ?_
    rw [← State.expandKey_aesPart]
    rfl
  | aesRound =>
    refine command_part hkeep h ?_
    rw [← State.doRound_aesPart]
    rfl
  | aesEnc =>
    refine command_part hkeep h ?_
    rw [← State.runRounds_aesPart]
    rfl
  | _ => simp [unitOf, Instr.opcode] at hu

/-! ## The DES part -/

/-- The DES registers, the status and the output streams; everything else as after reset. -/
def State.desPart (s : State) : State :=
  { State.reset with
    DB := s.DB, DK := s.DK, L := s.L, R := s.R, C := s.C, D := s.D, K := s.K, DRND := s.DRND
    DBV := s.DBV, DKV := s.DKV, DKSV := s.DKSV
    MODE := s.MODE, ERRCODE := s.ERRCODE, ERROP := s.ERROP, rsp := s.rsp, trc := s.trc }

theorem State.desPart_eq_iff (s t : State) :
    s.desPart = t.desPart ↔ s.SameDes t ∧ s.SameStatus t ∧ s.rsp = t.rsp ∧ s.trc = t.trc := by
  simp [State.desPart, State.SameDes, State.SameStatus, and_assoc]

theorem State.keepsStatus_desPart : State.KeepsStatus State.desPart := ⟨fun _ => rfl, fun _ => rfl, fun _ _ _ => rfl⟩

theorem State.scheduleKeys_desPart (s : State) : s.scheduleKeys.desPart = s.desPart.scheduleKeys :=
  (List.foldl_hom State.desPart fun _ _ => rfl).symm

theorem State.runDrounds_desPart (n : Nat) (s : State) :
    (State.runDrounds n s).desPart = State.runDrounds n s.desPart := by
  induction n generalizing s with
  | zero => rfl
  | succ n ih =>
    have hround : s.doDround.desPart = s.desPart.doDround := rfl
    unfold State.runDrounds
    rw [← hround, ← ih]
    exact apply_ite State.desPart _ _ _

/-- The state in which the rounds of DES.ENC begin (43_des.md R236). -/
theorem State.desEncStart_desPart (s : State) :
    (if s.DRND.toNat = 0 then s.initialPermutation else s).desPart =
      if s.desPart.DRND.toNat = 0 then s.desPart.initialPermutation else s.desPart :=
  apply_ite State.desPart _ _ _

theorem worksIn_desPart {i : Instr} (hu : unitOf i = 4) : WorksIn i State.desPart := by
  intro s s' h
  have hkeep := State.keepsStatus_desPart
  cases i with
  | desLdblk | desLdkey | desIp | desRound | desFp | desRdblk | desRdlr | desRdrk | desF | desSbox =>
    exact command_part hkeep h rfl
  | desKeysched =>
    refine command_part hkeep h ?_
    rw [← State.scheduleKeys_desPart]
    rfl
  | desEnc =>
    refine command_part hkeep h ?_
    rw [← State.desEncStart_desPart]
    dsimp only
    rw [← State.runDrounds_desPart]
    rfl
  | _ => simp [unitOf, Instr.opcode] at hu

/-! ## Every command, and every step, answers a next state -/

theorem exec_next (i : Instr) (s : State) : ∃ t, exec i s = .next t := by
  by_cases h1 : i = .sysReset
  · subst h1
    exact ⟨_, rfl⟩
  by_cases h2 : i = .sysRdstat
  · subst h2
    exact ⟨_, rfl⟩
  obtain ⟨checks, done, hexec⟩ := exec_command i s h1 h2
  exact hexec ▸ command_next i s done checks

end Sys2Proof.Machine
end

section
/-!
PROOFS. The family of 70_reset_and_hazards.md: the hard reset and waiting, that every step answers a next state, and the
independence of the units.
-/

namespace Sys2Proof.Machine

open Sys2Proof.Claims

/-- Settles O6, by the two steps that take no packet; driving the pin low is entering the held state. -/
theorem hardResetAndWaiting : Obligations.HardResetAndWaiting :=
  ⟨fun _ hr => step_held hr, fun _ => rfl, fun _ hr hc => step_waits hr hc⟩

/-- Settles O8, by the cases of a step: held in reset, waiting, executing a command, rejecting a packet. -/
theorem everyStepAnswersNextState : Obligations.EveryStepAnswersNextState := by
  intro s
  by_cases hr : s.rstN = false
  · exact ⟨_, step_held hr⟩
  have hr : s.rstN = true := by simpa using hr
  cases hc : s.cmd with
  | nil => exact ⟨s, step_waits hr hc⟩
  | cons pkt rest =>
    cases hd : decode pkt with
    | ok i => exact step_executes hr hc hd ▸ exec_next i _
    | error code => exact ⟨_, step_rejects hr hc hd⟩

/-- Settles O18: the frame of each unit, and the part of the state that an AES or a DES command works in. -/
theorem unitsAreIndependent : Obligations.UnitsAreIndependent := by
  refine ⟨fun i s t hreset h => exec_keeps_otherUnits hreset h, fun i s t s' t' hstatus hrsp htrc hs ht => ⟨?_, ?_⟩⟩
  · intro hu hsame
    exact (s'.aesPart_eq_iff t').mp
      ((worksIn_aesPart hu).agree hs ht ((s.aesPart_eq_iff t).mpr ⟨hsame, hstatus, hrsp, htrc⟩))
  · intro hu hsame
    exact (s'.desPart_eq_iff t').mp
      ((worksIn_desPart hu).agree hs ht ((s.desPart_eq_iff t).mpr ⟨hsame, hstatus, hrsp, htrc⟩))

end Sys2Proof.Machine
end
